-- ==== Sys2Proof/Word.lean ====
section
/-!
DEFINITION. The widths of the spec (00_scope.md R8, R10): bits, 4-bit codes and indices, bytes and 16-bit command words.
The values whose width is a parameter of the block (R7) are natural numbers below the power of two it gives (log 12).
-/

namespace Sys2Proof

/-- One bit; `true` is 1 and `false` is 0 (R8, R34: high is 1, low is 0, no inversion). -/
abbrev Bit := Bool

/-- A 4-bit value: a switch code, a position index before it is stored, or a micro-step id (R10, R85). -/
abbrev Nibble := BitVec 4

/-- An 8-bit value: a raw sample byte, COUNT, a field of a command word (R10, R22, R71). -/
abbrev Byte := BitVec 8

/-- A 16-bit host command word (R71). -/
abbrev CmdWord := BitVec 16

end Sys2Proof
end

