-- ==== Sys2Proof/Config.lean ====
section
/-!
DEFINITION. The parameters of 00_scope.md R7 as fields with the stated values as defaults, the instantiations the spec admits, and
the two free values.
-/

namespace Sys2Proof

/-- The parameters of the block (R7, R60). A value of this type is fixed for one machine: State carries it and no step writes
it (log 11). CODE_WIDTH is no field: it is "fixed, not a parameter the model may vary" (R7). -/
structure Params where
  /-- MAX_COUNT, the most switches a chain may have (R7; 90_conflicts.md C3). -/
  maxCount : Nat := 100
  /-- MAX_BYTES, the most raw sample bytes: MAX_COUNT / 2 (R7). -/
  maxBytes : Nat := maxCount / 2
  /-- T_SETTLE in microseconds (R7). Timing only: no rule of the model reads it (R243, R248). -/
  settleMicros : Nat := 50
  /-- ENTRY_WIDTH, the bits of a CUR or PREV entry (R7, D9). -/
  entryWidth : Nat := 8
  /-- SENTINEL, seeded into PREV by INIT: all ENTRY_WIDTH bits set, 0xFF (R7, R26, D9). -/
  sentinel : Nat := 2 ^ entryWidth - 1
  /-- COUNT_IN_WIDTH, the bits of COUNT_IN (R7, D10). -/
  countInWidth : Nat := 16
  /-- TYPE_WIDTH, the bits of a position-type entry (R7, D11). -/
  typeWidth : Nat := 8
  /-- INH_ACTIVE: the level that asserts the inhibit line (R7, D4). -/
  inhActive : Bit := true
  /-- ALLOC_MAY_FAIL: whether an INIT with a valid record may still end in E_ALLOC (R7, R184). -/
  allocMayFail : Bool := true
  /-- The position types (R7, R76). -/
  positionTypes : List Nat := [0x08, 0x0C, 0x10]
  /-- BLOCK_BASE: the block's place in a host's address map, if it has one (R60). No rule reads it. -/
  blockBase : Option Nat := none
  deriving DecidableEq, Repr

/-- The instantiations the spec admits (log 12). -/
structure Params.Legal (ps : Params) : Prop where
  /-- "another even ceiling" (90_conflicts.md C3, R182). -/
  ceilingEven : ps.maxCount % 2 = 0
  /-- COUNT holds a switch count in 8 bits (R22). -/
  ceilingFits : ps.maxCount < 256
  /-- MAX_BYTES is MAX_COUNT / 2 (R7). -/
  bytes : ps.maxBytes = ps.maxCount / 2
  /-- "any width of at least 5 bits makes the sentinel unreachable" (D9). -/
  entryHolds : 5 ≤ ps.entryWidth
  /-- SENTINEL has all ENTRY_WIDTH bits set (R7). -/
  sentinelOnes : ps.sentinel = 2 ^ ps.entryWidth - 1
  /-- A position type has a decoder (R145), and TYPE_WIDTH bits hold it (R7). -/
  typesDecoded : ∀ t ∈ ps.positionTypes, (t = 0x08 ∨ t = 0x0C ∨ t = 0x10) ∧ t < 2 ^ ps.typeWidth

/-- FREE VALUE: the bit the environment answers to the n-th draw when the state lists no answer (R220; log 3). -/
opaque Config.serialBit : Nat → Bit

/-- FREE VALUE: the draw `allocOk` taken as the n-th draw when the state lists no answer (R184; log 4). -/
opaque Config.allocOk : Nat → Bool

end Sys2Proof
end

