-- ==== Sys2Proof/Syntax.lean ====
section
/-!
DEFINITION. The instructions: the four host commands of 30_encoding.md R72 and the twelve poll micro-steps of R85, one constructor
per row of spec/opcode_table.json, and the operand record of INIT (R75).
-/

namespace Sys2Proof

/-- The operand record presented with INIT (R75). A meaningful record has MAX_COUNT type slots, and its values fit their widths; see
`InitRecord.wellFormed`. -/
structure InitRecord where
  /-- COUNT_IN, the requested switch count before normalisation, COUNT_IN_WIDTH bits as a number. -/
  countIn : Nat
  /-- HAS_INH_IN, 1 when an inhibit line is configured. -/
  hasInhIn : Bit
  /-- TYPE_IN[0..MAX_COUNT-1], the requested position type of each switch. -/
  typeIn : List Nat
  deriving DecidableEq, Repr

/-- The record whose every bit is 0. -/
def InitRecord.zero (ps : Params) : InitRecord :=
  { countIn := 0, hasInhIn := false, typeIn := List.replicate ps.maxCount 0 }

/-- The record without slots, beside a command that takes none (R72). -/
def InitRecord.empty : InitRecord := { countIn := 0, hasInhIn := false, typeIn := [] }

/-- What the host presents: a command word and the operand record beside it, which only INIT reads (R71, R72, R75). -/
structure Presented where
  word : CmdWord
  record : InitRecord
  deriving DecidableEq, Repr

/-- The instructions of the block. -/
inductive Instr where
  /-- INIT (R181). -/
  | init (r : InitRecord)
  /-- POLL (R187). -/
  | poll
  /-- RDCUR of switch `i` (R188). -/
  | rdcur (i : Byte)
  /-- RDCNT (R189). -/
  | rdcnt
  /-- INH_ASSERT, MSTEP 0x1 (R100). -/
  | inhAssert
  /-- LATCH_PULSE, MSTEP 0x2 (R101). -/
  | latchPulse
  /-- INH_RELEASE, MSTEP 0x3 (R102). -/
  | inhRelease
  /-- SHIFT_BIT, MSTEP 0x4 (R103). -/
  | shiftBit
  /-- STORE_BYTE, MSTEP 0x5 (R104). -/
  | storeByte
  /-- CLEAR_CHG, MSTEP 0x6 (R161). -/
  | clearChg
  /-- SPLIT, MSTEP 0x7 (R120). -/
  | split
  /-- DECODE_GRAY, MSTEP 0x8 (R130). -/
  | decodeGray
  /-- DECODE_LUT8, MSTEP 0x9 (R140). -/
  | decodeLut8
  /-- DECODE_LUT12, MSTEP 0xA (R142). -/
  | decodeLut12
  /-- COMPARE_COMMIT, MSTEP 0xB (R163). -/
  | compareCommit
  /-- POLL_DONE, MSTEP 0xC (R164). -/
  | pollDone
  deriving DecidableEq, Repr

/-- The host can issue the four commands; the micro-steps are internal (R85). -/
def Instr.hostIssuable : Instr → Bool
  | .init _ | .poll | .rdcur _ | .rdcnt => true
  | .inhAssert | .latchPulse | .inhRelease | .shiftBit | .storeByte | .clearChg | .split
  | .decodeGray | .decodeLut8 | .decodeLut12 | .compareCommit | .pollDone => false

end Sys2Proof
end

