-- ==== Sys2Proof/WellFormed.lean ====
section
/-!
DEFINITION. Which terms are instructions the spec gives a meaning: the record of INIT has exactly MAX_COUNT type slots, and its
values fit the widths of R7 (R75). Every other operand is bounded by its type.
-/

namespace Sys2Proof

/-- R75: TYPE_IN has the slots 0 to MAX_COUNT-1, of TYPE_WIDTH bits, and COUNT_IN has COUNT_IN_WIDTH bits. -/
def InitRecord.wellFormed (ps : Params) (r : InitRecord) : Bool :=
  r.typeIn.length == ps.maxCount && decide (r.countIn < 2 ^ ps.countInWidth) &&
    r.typeIn.all fun t => decide (t < 2 ^ ps.typeWidth)

/-- Whether an instruction's operands have the form the spec gives them. -/
def Instr.wellFormed (ps : Params) : Instr → Bool
  | .init r => r.wellFormed ps
  | .poll | .rdcur _ | .rdcnt => true
  | .inhAssert | .latchPulse | .inhRelease | .shiftBit | .storeByte | .clearChg | .split => true
  | .decodeGray | .decodeLut8 | .decodeLut12 | .compareCommit | .pollDone => true

end Sys2Proof
end

