-- ==== Sys2Proof/Decode.lean ====
section
/-!
DEFINITION. The decoder of host command words (30_encoding.md R71 to R74) and of micro-step ids (R85), total and rejecting by
name, then the encoder, written from the same tables.
-/

namespace Sys2Proof

/-- What the block's sequencer is given to run: a command the host presents, or a micro-step id (R70 (a), R85). -/
inductive Encoded where
  | command (p : Presented)
  | micro (id : Nibble)
  deriving DecidableEq, Repr

/-- Why a code names no instruction. -/
inductive DecodeError where
  /-- OP is 0x00 or 0x05 to 0xFF (R73). -/
  | reservedOp (w : CmdWord)
  /-- INIT, POLL or RDCNT with ARG other than 0x00 (R74). -/
  | nonzeroArg (w : CmdWord)
  /-- INIT with a record that is none of R75's: other than MAX_COUNT type slots, or a value past its width (log 15). -/
  | malformedRecord
  /-- MSTEP 0x0 or 0xD to 0xF, which name nothing (R85). -/
  | unnamedMStep (id : Nibble)
  deriving DecidableEq, Repr

/-- OP = CMD[7:0] (R71). -/
def opField (w : CmdWord) : Byte := w.extractLsb' 0 8

/-- ARG = CMD[15:8] (R71). -/
def argField (w : CmdWord) : Byte := w.extractLsb' 8 8

/-- The instruction of a command that takes no operand in CMD (R74). -/
def withZeroArg (w : CmdWord) (i : Instr) : Except DecodeError Instr :=
  if argField w = 0x00 then .ok i else .error (.nonzeroArg w)

/-- INIT with its record (R75). -/
def withRecord (ps : Params) (r : InitRecord) : Except DecodeError Instr :=
  if r.wellFormed ps then .ok (.init r) else .error .malformedRecord

/-- The opcode map of R72. The parameters give the record its form (R7, R75). -/
def decodeCommand (ps : Params) (p : Presented) : Except DecodeError Instr :=
  if opField p.word = 0x01 then (withZeroArg p.word (.init p.record)).bind fun _ => withRecord ps p.record
  else if opField p.word = 0x02 then withZeroArg p.word .poll
  else if opField p.word = 0x03 then .ok (.rdcur (argField p.word))
  else if opField p.word = 0x04 then withZeroArg p.word .rdcnt
  else .error (.reservedOp p.word)

/-- The micro-step ids of R85. -/
def decodeMicro (id : Nibble) : Except DecodeError Instr :=
  if id = 0x1 then .ok .inhAssert
  else if id = 0x2 then .ok .latchPulse
  else if id = 0x3 then .ok .inhRelease
  else if id = 0x4 then .ok .shiftBit
  else if id = 0x5 then .ok .storeByte
  else if id = 0x6 then .ok .clearChg
  else if id = 0x7 then .ok .split
  else if id = 0x8 then .ok .decodeGray
  else if id = 0x9 then .ok .decodeLut8
  else if id = 0xA then .ok .decodeLut12
  else if id = 0xB then .ok .compareCommit
  else if id = 0xC then .ok .pollDone
  else .error (.unnamedMStep id)

/-- The decoder. -/
def decode (ps : Params) : Encoded → Except DecodeError Instr
  | .command p => decodeCommand ps p
  | .micro id => decodeMicro id

/-- CMD = {ARG, OP} (R71, R84). -/
def commandWord (arg op : Byte) : CmdWord := arg ++ op

/-- The command word of INIT (R181). -/
def initWord : CmdWord := commandWord 0x00 0x01

/-- The command word of POLL (R187). -/
def pollWord : CmdWord := commandWord 0x00 0x02

/-- The command word of RDCUR of switch `i` (R188). -/
def rdcurWord (i : Byte) : CmdWord := commandWord i 0x03

/-- The command word of RDCNT (R189). -/
def rdcntWord : CmdWord := commandWord 0x00 0x04

/-- The encoder: a command with its record (the empty record where the command takes none), or a micro-step id. -/
def encode : Instr → Encoded
  | .init r => .command ⟨initWord, r⟩
  | .poll => .command ⟨pollWord, .empty⟩
  | .rdcur i => .command ⟨rdcurWord i, .empty⟩
  | .rdcnt => .command ⟨rdcntWord, .empty⟩
  | .inhAssert => .micro 0x1
  | .latchPulse => .micro 0x2
  | .inhRelease => .micro 0x3
  | .shiftBit => .micro 0x4
  | .storeByte => .micro 0x5
  | .clearChg => .micro 0x6
  | .split => .micro 0x7
  | .decodeGray => .micro 0x8
  | .decodeLut8 => .micro 0x9
  | .decodeLut12 => .micro 0xA
  | .compareCommit => .micro 0xB
  | .pollDone => .micro 0xC

/-- A code of spec/opcode_table.json as its bits are numbered there: a row of at most one byte is a 4-bit MSTEP
(format MSTEP4), a longer one a 16-bit CMD (format CMD16) presented with the zero record (log 19). -/
def tableCode (ps : Params) (nbits w : Nat) : Option Encoded :=
  if nbits ≤ 8 then
    if w < 16 then some (.micro (BitVec.ofNat 4 w)) else none
  else if w < 65536 then some (.command ⟨BitVec.ofNat 16 w, .zero ps⟩) else none

/-- The instruction the decoder reads from the bits `w` of an opcode-table row, at the default parameters (R7). -/
def decodeTableWord (nbits w : Nat) : Option Instr :=
  match tableCode {} nbits w with
  | some e => (decode {} e).toOption
  | none => none

end Sys2Proof
end

