-- ==== Sys2Proof/Machine/State.lean ====
section
/-!
DEFINITION. The state of the block: every element of 10_state.md R20, then the model's own fields, and the state after power-on
reset (70_reset_and_hazards.md R230). Also the faults and refusals of a step.
-/

namespace Sys2Proof.Machine

/-- PHASE (R21). -/
inductive Phase where
  | unconfigured
  | idle
  | latching
  | shifting
  | decoding
  | compareAndCommit
  deriving DecidableEq, Repr

/-- The level of an output line: undriven, or driven to a bit (R31 to R33). -/
inductive Level where
  | z
  | driven (b : Bit)
  deriving DecidableEq, Repr

/-- The output lines (R36). -/
inductive Line where
  | latchO
  | clkO
  | inhO
  deriving DecidableEq, Repr

/-- The line events of HIST (R36). `configIn` is `ConfigIn(SER_I)`, the only input line. -/
inductive Event where
  | configOut (l : Line)
  | configIn
  | drive (l : Line) (lvl : Bit)
  | sample (b : Bit)
  | settle
  deriving DecidableEq, Repr

/-- The model faults of 60_exceptions.md R201. -/
inductive FaultKind where
  | reservedOp
  | busy
  | notConfigured
  | indexRange
  | unwrittenRead
  deriving DecidableEq, Repr

/-- What FAULT records: the fault and the command word that raised it (R35, R212). -/
structure FaultRecord where
  kind : FaultKind
  cmd : CmdWord
  deriving DecidableEq, Repr

/-- Why an INIT failed (R207). -/
inductive InitFailure where
  | zeroCount
  | badType
  | alloc
  deriving DecidableEq, Repr

/-- The response of a completed command (R77). -/
inductive Response where
  /-- INIT: OK, 1 bit. -/
  | ok (b : Bit)
  /-- POLL: CHANGED, 1 bit. -/
  | changed (b : Bit)
  /-- RDCUR: CUR[i], ENTRY_WIDTH bits. -/
  | cur (v : Nat)
  /-- RDCNT: COUNT, 8 bits. -/
  | count (v : Byte)
  deriving DecidableEq, Repr

/-- One input of the host or the platform to the block (the model's own; log 2). -/
inductive HostInput where
  /-- A command presented now, whatever the block is doing (R203, R240). -/
  | present (p : Presented)
  /-- A command presented as soon as the block is not busy: the host that waits for the response (R240). -/
  | issue (p : Presented)
  /-- Nothing is presented at this step. -/
  | pause
  /-- Power-on reset (R230, R231). -/
  | powerOn
  deriving DecidableEq, Repr

/-- An element of state that may hold no value. -/
inductive Element where
  | count
  | hasInh
  | type
  | prev
  | raw
  | acc
  | chg
  | k
  | j
  | i
  | code
  | idx
  deriving DecidableEq, Repr

/-- The state of the block. An element that holds ⊥ is `none`: ⊥ is the spec's own value of it (R20, R230; log 6). An array is the
list of its entries, as long as the parameters say (R7; log 12). -/
structure State where
  /-- PHASE (R21). -/
  phase : Phase
  /-- COUNT (R22). -/
  count : Option Byte
  /-- TYPE[0..MAX_COUNT-1] (R23), each below 2 to the TYPE_WIDTH (R7). -/
  type : List (Option Nat)
  /-- HAS_INH (R24). -/
  hasInh : Option Bit
  /-- CUR[0..MAX_COUNT-1] (R25), each below 2 to the ENTRY_WIDTH (R7). -/
  cur : List (Option Nat)
  /-- PREV[0..MAX_COUNT-1] (R26), each below 2 to the ENTRY_WIDTH (R7). -/
  prev : List (Option Nat)
  /-- RAW[0..MAX_BYTES-1] (R27). -/
  raw : List (Option Byte)
  /-- ACC, bit b at place b, each bit defined or not (R28; log 8). -/
  acc : Vector (Option Bit) 8
  /-- CHG (R29). -/
  chg : Option Bit
  /-- K, the byte index, in [0, MAX_BYTES-1] (R30; log 17). -/
  k : Option Nat
  /-- J, the bit index in the order of sampling (R30). -/
  j : Option (Fin 8)
  /-- I, the switch index, in [0, MAX_COUNT-1] (R30; log 17). -/
  i : Option Nat
  /-- LATCH_O (R31). -/
  latchO : Level
  /-- CLK_O (R32). -/
  clkO : Level
  /-- INH_O (R33). -/
  inhO : Level
  /-- FAULT (R35). -/
  fault : Option FaultRecord
  /-- HIST, oldest event first (R36). -/
  hist : List Event
  /-- The parameters (R7; log 11). -/
  params : Params
  /-- The id of the micro-step that runs next, 0x0 when no poll is running (R37, R85; log 7). -/
  mstep : Nibble
  /-- The code SPLIT hands to the decoder (R120; log 7). -/
  code : Option Nibble
  /-- The index the decoder hands to COMPARE_COMMIT (R130, R163; log 7). -/
  idx : Option Nibble
  /-- The reason of the latest INIT if it failed (R186; log 10). -/
  reason : Option InitFailure
  /-- The responses given to the host, oldest first (R9; log 9). -/
  responses : List Response
  /-- The host's inputs to come (log 2). -/
  host : List HostInput
  /-- The environment's answers to come for `sample(SER_I)` (R220; log 3). -/
  serial : List Bit
  /-- The answers to come for the draw `allocOk` (R184; log 4). -/
  alloc : List Bool
  /-- How many draws have been taken (logs 3 and 4). -/
  draws : Nat
  deriving DecidableEq, Repr

/-- Why the machine stops. Every one of these is safe: the model stops and claims nothing of what follows. -/
inductive Fault where
  /-- Raised by `step` in a state with FAULT other than none, which "has no further step" (R35, R212). Safe. -/
  | halted (kind : FaultKind) (cmd : CmdWord)
  /-- Raised by `need` when a meaning reads an element that holds ⊥; "No rule reads ⊥ silently" (R9).
  No reachable state raises it (R201). Safe. -/
  | noValue (e : Element)
  /-- Raised by SPLIT when TYPE[I] is not 0x08, 0x0C or 0x10, which INIT makes unreachable (R145, R183). Safe. -/
  | illegalType (t : Nat)
  /-- Raised by `step` when the sequencer holds an id that names no micro-step (R85). No reachable state raises it. Safe. -/
  | unnamedMStep (id : Nibble)
  deriving DecidableEq, Repr

/-- Why the model gives an instruction no meaning. -/
inductive Refusal where
  /-- An instruction without a meaning yet, by its mnemonic: raised by `exec` alone. Safe. -/
  | notModelled (mnemonic : String)
  /-- Raised by `step` when INIT is presented with a record that is none of R75's: other than MAX_COUNT type slots, or a value
  past its width (log 15). Safe. -/
  | malformedRecord
  deriving DecidableEq, Repr

/-- The outcome of an instruction or of a step. -/
abbrev Result := Host.Outcome State Fault Refusal

/-- The block with the given parameters right after power-on reset (R230), with no input waiting. -/
def State.resetWith (ps : Params) : State where
  phase := .unconfigured
  count := none
  type := List.replicate ps.maxCount none
  hasInh := none
  cur := List.replicate ps.maxCount none
  prev := List.replicate ps.maxCount none
  raw := List.replicate ps.maxBytes none
  acc := Vector.replicate 8 none
  chg := none
  k := none
  j := none
  i := none
  latchO := .z
  clkO := .z
  inhO := .z
  fault := none
  hist := []
  params := ps
  mstep := 0x0
  code := none
  idx := none
  reason := none
  responses := []
  host := []
  serial := []
  alloc := []
  draws := 0

/-- The block right after power-on reset (R230), at the default parameters (R7). -/
def State.reset : State := State.resetWith {}

end Sys2Proof.Machine
end

