-- ==== Sys2Proof/Machine/Operands.lean ====
section
/-!
DEFINITION. The operand forms: bits of the accumulator (R52, R103), nibbles of a raw byte (R54, R79), stored indices (R81), entries of
an array (R9), and the INIT record (R182, R183).
-/

namespace Sys2Proof.Machine

/-- The place in ACC of the J-th sampled bit: bit 7 - J, most significant first (R52, R103). -/
def accPlace (j : Fin 8) : Fin 8 := ⟨7 - j.val, by omega⟩

/-- An accumulator none of whose bits is defined (R28). -/
def accUndefined : Vector (Option Bit) 8 := Vector.replicate 8 none

/-- A byte from its bits, bit 7 first. -/
def byteOfBits (b7 b6 b5 b4 b3 b2 b1 b0 : Bit) : Byte :=
  BitVec.ofBoolListBE [b7, b6, b5, b4, b3, b2, b1, b0]

/-- ACC read as a byte, when all its eight bits are defined (R104). -/
def accByte (a : Vector (Option Bit) 8) : Option Byte :=
  a[7].bind fun b7 => a[6].bind fun b6 => a[5].bind fun b5 => a[4].bind fun b4 =>
    a[3].bind fun b3 => a[2].bind fun b2 => a[1].bind fun b1 => a[0].bind fun b0 =>
      some (byteOfBits b7 b6 b5 b4 b3 b2 b1 b0)

/-- The code of the first switch of a pair, byte[7:4] (R54, R120). -/
def highNibble (b : Byte) : Nibble := b.extractLsb' 4 4

/-- The code of the second switch of a pair, byte[3:0] (R54, R120). -/
def lowNibble (b : Byte) : Nibble := b.extractLsb' 0 4

/-- Whether switch `i` is the first of its pair (R79, R120). -/
def firstOfPair (i : Nat) : Bool := i % 2 == 0

/-- The code of switch `i` from the byte that holds its pair (R79, R120). -/
def codeOf (b : Byte) (i : Nat) : Nibble :=
  if firstOfPair i then highNibble b else lowNibble b

/-- The raw byte that holds switch `i`: RAW[i div 2] (R79, R121). -/
def pairByte (i : Nat) : Nat := i / 2

/-- An index as a CUR or PREV entry: zero-extended to ENTRY_WIDTH bits (R7, R10, R81). -/
def storedIndex (ps : Params) (x : Nibble) : Nat := (x.setWidth ps.entryWidth).toNat

/-- Nat `i` of an array: ⊥ where it holds no value, and past the array's end. -/
def entryAt {α : Type} (a : List (Option α)) (i : Nat) : Option α := (a[i]?).join

/-- `A[i] <- v` (R9). -/
def setEntry {α : Type} (a : List (Option α)) (i : Nat) (v : α) : List (Option α) := a.set i (some v)

/-- An array of `n` entries that hold no value. -/
def undefinedArray {α : Type} (n : Nat) : List (Option α) := List.replicate n none

/-- An array of `len` entries that holds `f i` at each place below `n` and ⊥ at and above it (R185). -/
def filledBelow {α : Type} (len n : Nat) (f : Nat → α) : List (Option α) :=
  (List.range len).map fun i => if i < n then some (f i) else none

/-- Count normalisation (R182). -/
def normalise (ps : Params) (c : Nat) : Nat := min (c + c % 2) ps.maxCount

/-- The position types (R7, R76). -/
def legalType (ps : Params) (t : Nat) : Bool := ps.positionTypes.contains t

/-- TYPE_IN[i] of a record; a slot the record lacks counts as 0x00, as in R84. -/
def typeInAt (r : InitRecord) (i : Nat) : Nat := r.typeIn.getD i 0x00

/-- Whether TYPE_IN[i] is legal for every i < n (R183). -/
def typesLegal (ps : Params) (r : InitRecord) (n : Nat) : Bool :=
  (List.range n).all fun i => legalType ps (typeInAt r i)

end Sys2Proof.Machine
end

