-- ==== Sys2Proof/Machine/Flags.lean ====
section
/-!
DEFINITION. The one flag, CHG (10_state.md R29), and the per-switch comparison behind it (44_state_buffer.md R163, R166).
-/

namespace Sys2Proof.Machine

/-- The per-switch change flag: the new entry differs from the old one (R166). It is not stored. -/
def entryChanged (new old : Nat) : Bool := new != old

/-- CHG after CLEAR_CHG (R161). -/
def chgCleared : Option Bit := some false

/-- CHG after COMPARE_COMMIT: set when the entry changed, otherwise left as it is (R163). -/
def chgAfter (changed : Bool) (chg : Option Bit) : Option Bit :=
  if changed then some true else chg

/-- PREV after COMPARE_COMMIT of switch `i`: the snapshot is updated when the entry changed (R163). -/
def prevAfter (changed : Bool) (prev : List (Option Nat)) (i : Nat) (new : Nat) : List (Option Nat) :=
  if changed then setEntry prev i new else prev

end Sys2Proof.Machine
end

