-- ==== Sys2Proof/Machine/Ops.lean ====
section
/-!
DEFINITION. The named operations of 00_scope.md R9 (drive, sample, settle, raise, respond), the reading of elements, the entry of a
model fault (60_exceptions.md R212), the acceptance checks (R210), and power-on reset (R230).
-/

namespace Sys2Proof.Machine

/-- Read an element: go on with its value, or stop when it holds ⊥ (R9). -/
def need {α : Type} (v : Option α) (e : Element) (go : α → Result) : Result :=
  match v with
  | some a => go a
  | none => .fault (.noValue e)

/-- Append line events to HIST (R36). -/
def State.emit (s : State) (es : List Event) : State := { s with hist := s.hist ++ es }

/-- Set the level of an output line. -/
def State.setLine (s : State) (l : Line) (b : Bit) : State :=
  match l with
  | .latchO => { s with latchO := .driven b }
  | .clkO => { s with clkO := .driven b }
  | .inhO => { s with inhO := .driven b }

/-- `drive(L, lvl)` (R9). -/
def State.drive (s : State) (l : Line) (b : Bit) : State := (s.setLine l b).emit [.drive l b]

/-- `settle()` (R9, R248). -/
def State.settle (s : State) : State := s.emit [.settle]

/-- The bit the environment answers next: the next answer listed, or the free value (R220). -/
def State.serialDraw (s : State) : Bit :=
  match s.serial with
  | b :: _ => b
  | [] => Config.serialBit s.draws

/-- The state after `sample(SER_I)` answered `s.serialDraw` (R9). -/
def State.sampled (s : State) : State :=
  { s with serial := s.serial.tail, draws := s.draws + 1, hist := s.hist ++ [.sample s.serialDraw] }

/-- The value of the draw `allocOk` (R181, R184). -/
def State.allocDraw (s : State) : Bool :=
  match s.alloc with
  | b :: _ => b
  | [] => Config.allocOk s.draws

/-- The state after the draw `allocOk`. -/
def State.allocDrawn (s : State) : State := { s with alloc := s.alloc.tail, draws := s.draws + 1 }

/-- `respond(v)` (R9, R77). -/
def State.respond (s : State) (v : Response) : State := { s with responses := s.responses ++ [v] }

/-- `raise F_<name>`: the entry of a model fault. FAULT takes (code, CMD); nothing else changes (R212). -/
def State.raiseFault (s : State) (f : FaultKind) (cmd : CmdWord) : State := { s with fault := some ⟨f, cmd⟩ }

/-- `next: <micro-step>`: the sequencer goes to a micro-step (R37, R85). -/
def State.goto (s : State) (id : Nibble) : State := { s with mstep := id }

/-- The code of a model fault (R201). -/
def FaultKind.code : FaultKind → Nat
  | .reservedOp => 1
  | .busy => 2
  | .notConfigured => 3
  | .indexRange => 4
  | .unwrittenRead => 5

/-- The phases other than Unconfigured and Idle are busy (R21). -/
def Phase.busy : Phase → Bool
  | .unconfigured | .idle => false
  | .latching | .shifting | .decoding | .compareAndCommit => true

/-- Acceptance check 2 of R210: F_BUSY while a poll is in progress. Check 1 is the decoder's. -/
def whenFree (s : State) (cmd : CmdWord) (go : Result) : Result :=
  if s.phase.busy then .next (s.raiseFault .busy cmd) else go

/-- Acceptance checks 2 and 3 of R210: F_BUSY, then F_NOT_CONFIGURED. -/
def whenConfigured (s : State) (cmd : CmdWord) (go : Result) : Result :=
  whenFree s cmd (if s.phase = .unconfigured then .next (s.raiseFault .notConfigured cmd) else go)

/-- Every element of storage at ⊥: the part of R185 and R186 that both outcomes of INIT share, and R230. -/
def State.discard (s : State) : State :=
  { s with
    count := none, hasInh := none
    type := undefinedArray s.params.maxCount
    cur := undefinedArray s.params.maxCount
    prev := undefinedArray s.params.maxCount
    raw := undefinedArray s.params.maxBytes
    acc := accUndefined, chg := none, k := none, j := none, i := none
    mstep := 0x0, code := none, idx := none }

/-- Power-on reset: R230's state begins a new run; only the machine's parameters and what lies outside the block stay (R231; log 14). -/
def State.powerOn (s : State) (rest : List HostInput) : State :=
  { State.resetWith s.params with
    host := rest, serial := s.serial, alloc := s.alloc, draws := s.draws }

end Sys2Proof.Machine
end

