-- ==== Sys2Proof/Machine/Decoders.lean ====
section
/-!
DEFINITION. The Gray decoder (42_gray_decoder.md R130) and the two lookup decoders (43_lookup_decoder.md R140, R142, R144).
-/

namespace Sys2Proof.Machine

/-- The loop of R130: while `m` is not 0, `n <- n ^ m` and `m <- m >> 1`. The first argument bounds the rounds;
a 4-bit `m` is 0 after four shifts. -/
def grayRounds : Nat → Nibble → Nibble → Nibble
  | 0, n, _ => n
  | fuel + 1, n, m => if m = 0 then n else grayRounds fuel (n ^^^ m) (m >>> 1)

/-- The Gray-to-binary conversion (R130). -/
def grayIndex (code : Nibble) : Nibble := grayRounds 4 code (code >>> 1)

/-- The 8-position table with its fallback (R140, R144). -/
def lut8Index (code : Nibble) : Nibble :=
  if code = 0x0 then 0 else if code = 0x4 then 1 else if code = 0xC then 2 else if code = 0xE then 3
  else if code = 0x6 then 4 else if code = 0x7 then 5 else if code = 0x3 then 6 else if code = 0x2 then 7
  else 0

/-- The 12-position table with its fallback (R142, R144). -/
def lut12Index (code : Nibble) : Nibble :=
  if code = 0x0 then 0 else if code = 0x8 then 1 else if code = 0xC then 2 else if code = 0x4 then 3
  else if code = 0x6 then 4 else if code = 0xE then 5 else if code = 0xA then 6 else if code = 0x2 then 7
  else if code = 0x3 then 8 else if code = 0xB then 9 else if code = 0x9 then 10 else if code = 0x1 then 11
  else 0

/-- Decode the code SPLIT left, by the given function, and go on to COMPARE_COMMIT (R130, R140, R142). -/
def decodeWith (f : Nibble → Nibble) (s : State) : Result :=
  need s.code .code fun c => .next ({ s with idx := some (f c), code := none }.goto 0xB)

/-- DECODE_GRAY (R130). -/
def execDecodeGray (s : State) : Result := decodeWith grayIndex s

/-- DECODE_LUT8 (R140). -/
def execDecodeLut8 (s : State) : Result := decodeWith lut8Index s

/-- DECODE_LUT12 (R142). -/
def execDecodeLut12 (s : State) : Result := decodeWith lut12Index s

end Sys2Proof.Machine
end

