-- ==== Sys2Proof/Machine/HostCommands.lean ====
section
/-!
DEFINITION. The host commands INIT, POLL, RDCUR and RDCNT (45_host_commands.md R180 to R190).
-/

namespace Sys2Proof.Machine

/-- The lines configured and idle after a successful INIT (R190). -/
def State.configureLines (s : State) (hasInh : Bit) : State :=
  let outs := if hasInh then [.configOut .latchO, .configOut .clkO, .configOut .inhO] else [.configOut .latchO, .configOut .clkO]
  let t := ((s.emit (outs ++ [.configIn])).drive .latchO true).drive .clkO false
  if hasInh then t.drive .inhO (!s.params.inhActive) else t

/-- `succeed(n)` (R185). -/
def State.initSucceed (s : State) (n : Nat) (r : InitRecord) : State :=
  let t := { s.discard with
    count := some (BitVec.ofNat 8 n)
    hasInh := some r.hasInhIn
    type := filledBelow s.params.maxCount n (typeInAt r)
    prev := filledBelow s.params.maxCount n fun _ => s.params.sentinel
    reason := none }
  { t.configureLines r.hasInhIn with phase := .idle }.respond (.ok true)

/-- `fail(reason)` (R186). -/
def State.initFail (s : State) (reason : InitFailure) : State :=
  { s.discard with phase := .unconfigured, reason := some reason }.respond (.ok false)

/-- Why an INIT fails, in the order of R211; none when it succeeds (R181). -/
def initOutcome (ps : Params) (allocOk : Bool) (n : Nat) (r : InitRecord) : Option InitFailure :=
  if n = 0 then some .zeroCount
  else if typesLegal ps r n = false then some .badType
  else if ps.allocMayFail && !allocOk then some .alloc
  else none

/-- INIT once it is accepted (R181). It takes one draw, whether or not the draw decides (log 4). -/
def State.runInit (s : State) (r : InitRecord) : State :=
  let n := normalise s.params r.countIn
  match initOutcome s.params s.allocDraw n r with
  | some reason => s.allocDrawn.initFail reason
  | none => s.allocDrawn.initSucceed n r

/-- INIT (R181). -/
def execInit (r : InitRecord) (s : State) : Result := whenFree s initWord (.next (s.runInit r))

/-- The start of a poll (R160). -/
def State.startPoll (s : State) : State := { s with phase := .latching }.goto 0x1

/-- POLL (R187): accepted, it starts the micro-steps of R160, the last of which responds (log 1). -/
def execPoll (s : State) : Result := whenConfigured s pollWord (.next s.startPoll)

/-- RDCUR (R188). -/
def execRdcur (i : Byte) (s : State) : Result :=
  whenConfigured s (rdcurWord i) <| need s.count .count fun n =>
    if n.toNat ≤ i.toNat then .next (s.raiseFault .indexRange (rdcurWord i))
    else match entryAt s.cur i.toNat with
      | none => .next (s.raiseFault .unwrittenRead (rdcurWord i))
      | some v => .next (s.respond (.cur v))

/-- RDCNT (R189). -/
def execRdcnt (s : State) : Result :=
  whenConfigured s rdcntWord <| need s.count .count fun n => .next (s.respond (.count n))

end Sys2Proof.Machine
end

