-- ==== Sys2Proof/Machine/Sampling.lean ====
section
/-!
DEFINITION. The micro-steps of a poll's Latching and Shifting phases (40_sampling.md R100 to R104).
-/

namespace Sys2Proof.Machine

/-- Drive the inhibit line when one is configured (R100, R102). -/
def State.driveInhibit (s : State) (hasInh lvl : Bit) : State := if hasInh then s.drive .inhO lvl else s

/-- INH_ASSERT (R100). -/
def execInhAssert (s : State) : Result :=
  need s.hasInh .hasInh fun h => .next ((s.driveInhibit h s.params.inhActive).goto 0x2)

/-- The latch pulse on the lines: low, settle, high, settle (R101). -/
def State.pulseLatch (s : State) : State :=
  (((s.drive .latchO false).settle).drive .latchO true).settle

/-- LATCH_PULSE (R101). -/
def execLatchPulse (s : State) : Result := .next (s.pulseLatch.goto 0x3)

/-- The sequencer at the first bit of a poll (R102). -/
def State.startShifting (s : State) : State :=
  { s with phase := .shifting, k := some 0, j := some 0, acc := accUndefined }

/-- INH_RELEASE (R102). -/
def execInhRelease (s : State) : Result :=
  need s.hasInh .hasInh fun h => .next ((s.driveInhibit h (!s.params.inhActive)).startShifting.goto 0x4)

/-- The clock pulse on the lines: high, settle, low, settle (R103). -/
def State.pulseClock (s : State) : State :=
  (((s.drive .clkO true).settle).drive .clkO false).settle

/-- Sample one bit into ACC[7 - J], then pulse the clock (R103). -/
def State.shiftIn (s : State) (j : Fin 8) : State :=
  { s.sampled with acc := s.acc.set (accPlace j).val (some s.serialDraw) (accPlace j).isLt }.pulseClock

/-- SHIFT_BIT (R103). -/
def execShiftBit (s : State) : Result :=
  need s.j .j fun j =>
    if j.val < 7 then .next ({ s.shiftIn j with j := some (j + 1) }.goto 0x4)
    else .next ((s.shiftIn j).goto 0x5)

/-- RAW[K] takes a byte, and the accumulator starts afresh (R104). -/
def State.storeRaw (s : State) (k : Nat) (b : Byte) : State :=
  { s with raw := setEntry s.raw k b, acc := accUndefined, j := some 0 }

/-- STORE_BYTE (R104). -/
def execStoreByte (s : State) : Result :=
  need (accByte s.acc) .acc fun b => need s.k .k fun k => need s.count .count fun n =>
    if k + 1 < n.toNat / 2 then .next ({ s.storeRaw k b with k := some (k + 1) }.goto 0x4)
    else .next ({ s.storeRaw k b with phase := .decoding }.goto 0x6)

end Sys2Proof.Machine
end

