-- ==== Sys2Proof/Machine/Splitter.lean ====
section
/-!
DEFINITION. The nibble splitter (41_nibble_splitter.md R120) and the choice of the decoder by position type (43_lookup_decoder.md R145).
-/

namespace Sys2Proof.Machine

/-- The micro-step that decodes a switch of the given type (R85, R145). -/
def decoderFor (t : Nat) : Option Nibble :=
  if t = 0x10 then some 0x8
  else if t = 0x08 then some 0x9
  else if t = 0x0C then some 0xA
  else none

/-- Go to the decoder of a switch's type. A type outside R76 has none, and INIT keeps it out (R145, R183; log 18). -/
def State.gotoDecoder (s : State) (t : Nat) : Result :=
  match decoderFor t with
  | some id => .next (s.goto id)
  | none => .fault (.illegalType t)

/-- SPLIT (R120). -/
def execSplit (s : State) : Result :=
  need s.i .i fun i => need (entryAt s.raw (pairByte i)) .raw fun b => need (entryAt s.type i) .type fun t =>
    { s with code := some (codeOf b i) }.gotoDecoder t

end Sys2Proof.Machine
end

