-- ==== Sys2Proof/Machine/StateBuffer.lean ====
section
/-!
DEFINITION. The micro-steps of the state buffer: CLEAR_CHG, COMPARE_COMMIT and POLL_DONE (44_state_buffer.md R161, R163, R164).
-/

namespace Sys2Proof.Machine

/-- CLEAR_CHG (R161). -/
def execClearChg (s : State) : Result :=
  .next ({ s with chg := chgCleared, i := some 0 }.goto 0x7)

/-- Write switch `i`'s entry, compare it with the old one and update the snapshot (R163). -/
def State.commit (s : State) (i : Nat) (new old : Nat) : State :=
  { s with
    cur := setEntry s.cur i new
    prev := prevAfter (entryChanged new old) s.prev i new
    chg := chgAfter (entryChanged new old) s.chg
    idx := none }

/-- COMPARE_COMMIT (R163). Its phase CompareAndCommit is left again within the step unless this was the last switch (log 16). -/
def execCompareCommit (s : State) : Result :=
  need s.idx .idx fun x => need s.i .i fun i => need (entryAt s.prev i) .prev fun old => need s.count .count fun n =>
    if i + 1 < n.toNat then
      .next ({ s.commit i (storedIndex s.params x) old with i := some (i + 1), phase := .decoding }.goto 0x7)
    else .next ({ s.commit i (storedIndex s.params x) old with phase := .compareAndCommit }.goto 0xC)

/-- Every RAW[k] at ⊥, PHASE Idle, no micro-step to come (R164). -/
def State.endPoll (s : State) : State :=
  { s with raw := undefinedArray s.params.maxBytes, phase := .idle }.goto 0x0

/-- POLL_DONE (R164). -/
def execPollDone (s : State) : Result :=
  need s.chg .chg fun c => .next (s.endPoll.respond (.changed c))

end Sys2Proof.Machine
end

