-- ==== Sys2Proof/Machine/Dispatch.lean ====
section
/-!
DEFINITION. The meaning of every instruction: one arm per constructor of Instr.
-/

namespace Sys2Proof.Machine

/-- One instruction on one state. -/
def exec (i : Instr) (s : State) : Host.Outcome State Fault Refusal :=
  match i with
  | .init r => Sys2Proof.Machine.execInit r s
  | .poll => Sys2Proof.Machine.execPoll s
  | .rdcur n => Sys2Proof.Machine.execRdcur n s
  | .rdcnt => Sys2Proof.Machine.execRdcnt s
  | .inhAssert => Sys2Proof.Machine.execInhAssert s
  | .latchPulse => Sys2Proof.Machine.execLatchPulse s
  | .inhRelease => Sys2Proof.Machine.execInhRelease s
  | .shiftBit => Sys2Proof.Machine.execShiftBit s
  | .storeByte => Sys2Proof.Machine.execStoreByte s
  | .clearChg => Sys2Proof.Machine.execClearChg s
  | .split => Sys2Proof.Machine.execSplit s
  | .decodeGray => Sys2Proof.Machine.execDecodeGray s
  | .decodeLut8 => Sys2Proof.Machine.execDecodeLut8 s
  | .decodeLut12 => Sys2Proof.Machine.execDecodeLut12 s
  | .compareCommit => Sys2Proof.Machine.execCompareCommit s
  | .pollDone => Sys2Proof.Machine.execPollDone s

end Sys2Proof.Machine
end

