-- ==== Sys2Proof/Machine/Fetch.lean ====
section
/-!
DEFINITION. What the block does next: take an input of the host, run the sequencer's micro-step, or wait (45_host_commands.md R180,
44_state_buffer.md R160, 70_reset_and_hazards.md R231, R232). Also what a code that names no instruction does, and the placing of a
table row's code where the next step takes it.
-/

namespace Sys2Proof.Machine

/-- What one step is given to do. -/
inductive Turn where
  /-- Power-on reset: this is the state after it. -/
  | reset (s : State)
  /-- A faulted state has no further step (R212). -/
  | halted (f : FaultRecord)
  /-- Nothing to run: the block waits for a command (R224, R232). -/
  | wait (s : State)
  /-- Run this code in this state. -/
  | run (e : Encoded) (s : State)

/-- In a faulted state only power-on reset goes on (R212, R213). -/
def State.unlessFaulted (s : State) (t : Turn) : Turn :=
  match s.fault with
  | some f => .halted f
  | none => t

/-- Without a command: the sequencer's micro-step when a poll is running, else wait (R37, R160, R224). -/
def State.ownTurn (s : State) : Turn :=
  if s.phase.busy then .run (.micro s.mstep) s else .wait s

/-- The next thing to do, by the host's next input (R215: reset wins; R240: `issue` waits for the block to be free). -/
def fetch (s : State) : Turn :=
  match s.host with
  | .powerOn :: rest => .reset (s.powerOn rest)
  | .present p :: rest => s.unlessFaulted (.run (.command p) { s with host := rest })
  | .issue p :: rest =>
    s.unlessFaulted (if s.phase.busy then s.ownTurn else .run (.command p) { s with host := rest })
  | .pause :: rest => s.unlessFaulted ({ s with host := rest }.ownTurn)
  | [] => s.unlessFaulted s.ownTurn

/-- A code that names no instruction: a reserved command word raises F_RESERVED_OP (R73, R74, R202), in every phase (R210). -/
def rejectCode (err : DecodeError) (s : State) : Result :=
  match err with
  | .reservedOp w => .next (s.raiseFault .reservedOp w)
  | .nonzeroArg w => .next (s.raiseFault .reservedOp w)
  | .malformedRecord => .refused .malformedRecord
  | .unnamedMStep id => .fault (.unnamedMStep id)

/-- Run a code in a state: decode it by the machine's parameters, then execute the instruction or reject the code (R180). -/
def runCode (e : Encoded) (s : State) : Result :=
  match decode s.params e with
  | .ok i => exec i s
  | .error err => rejectCode err s

/-- The phase in which a micro-step runs (R160). -/
def phaseOfMicro (id : Nibble) : Phase :=
  if id = 0x1 ∨ id = 0x2 ∨ id = 0x3 then .latching
  else if id = 0x4 ∨ id = 0x5 then .shifting
  else if id = 0xC then .compareAndCommit
  else .decoding

/-- An element, given a value where it holds ⊥. -/
def orElse {α : Type} (v : Option α) (d : α) : Option α := some (v.getD d)

/-- An array whose ⊥ entries are given a value. -/
def fillEach {α : Type} (a : List (Option α)) (d : α) : List (Option α) := a.map fun v => orElse v d

/-- A state whose next step runs the micro-step `id`: the host pauses, the phase and the sequencer are at the micro-step, and
an element a micro-step reads holds a value (where it held ⊥: COUNT 2, type 0x10, SENTINEL, else 0; log 19). -/
def State.atMicro (s : State) (id : Nibble) : State :=
  { s with
    host := .pause :: s.host, fault := none, phase := phaseOfMicro id, mstep := id
    count := orElse s.count 2, hasInh := orElse s.hasInh false
    type := fillEach s.type 0x10, prev := fillEach s.prev s.params.sentinel
    raw := fillEach s.raw 0x00, acc := s.acc.map fun b => orElse b false, chg := orElse s.chg false
    k := orElse s.k 0, j := orElse s.j 0, i := orElse s.i 0
    code := orElse s.code 0x0, idx := orElse s.idx 0x0 }

/-- The state with a table row's code placed where the next step takes it: a command is presented now, a micro-step is what the
sequencer is at (log 19). -/
def placeCode (s : State) (nbits w : Nat) : State :=
  if nbits ≤ 8 then s.atMicro (BitVec.ofNat 4 w)
  else { s with fault := none, host := .present ⟨BitVec.ofNat 16 w, .zero s.params⟩ :: s.host }

end Sys2Proof.Machine
end

