-- ==== Sys2Proof/Machine/Step.lean ====
section
/-!
DEFINITION. One step of the block: fetch, decode, execute.
-/

namespace Sys2Proof.Machine

/-- One step: a power-on reset, a stop in a faulted state, a wait, or one command or micro-step (R61, R62, R180). -/
def step (s : State) : Host.Outcome State Fault Refusal :=
  match fetch s with
  | .reset t => .next t
  | .halted f => .fault (.halted f.kind f.cmd)
  | .wait t => .next t
  | .run e t => runCode e t

/-- The state with a table row's code stored where `step` takes its next instruction. -/
def State.withFetchWord (s : State) (nbits w : Nat) : State := placeCode s nbits w

end Sys2Proof.Machine
end

