-- ==== Sys2Proof/Safety.lean ====
section
/-!
DEFINITION. What counts as a safe state, in the terms the statements use: the invariants of the arrays, the configuration, the state
buffer, the sequencer and the lines (10_state.md R22 to R38), and the serial frame a poll is going to receive (20_memory.md R55).
-/

namespace Sys2Proof.Machine

/-- The block's state as the spec lists it, "exactly the following elements" (R20), without the model's own fields. -/
structure Block where
  phase : Phase
  count : Option Byte
  type : List (Option Nat)
  hasInh : Option Bit
  cur : List (Option Nat)
  prev : List (Option Nat)
  raw : List (Option Byte)
  acc : Vector (Option Bit) 8
  chg : Option Bit
  k : Option Nat
  j : Option (Fin 8)
  i : Option Nat
  latchO : Level
  clkO : Level
  inhO : Level
  fault : Option FaultRecord
  hist : List Event
  deriving DecidableEq, Repr

/-- The elements of R20 in a state. -/
def State.block (s : State) : Block :=
  { phase := s.phase, count := s.count, type := s.type, hasInh := s.hasInh, cur := s.cur, prev := s.prev
    raw := s.raw, acc := s.acc, chg := s.chg, k := s.k, j := s.j, i := s.i
    latchO := s.latchO, clkO := s.clkO, inhO := s.inhO, fault := s.fault, hist := s.hist }

/-- Run `n` steps, stopping at a fault or a refusal. -/
def runFor : Nat → State → Result
  | 0, s => .next s
  | n + 1, s =>
    match step s with
    | .next t => runFor n t
    | .fault f => .fault f
    | .refused r => .refused r

/-- The effective switch count as a number; 0 when COUNT holds ⊥. -/
def State.switches (s : State) : Nat :=
  match s.count with
  | some c => c.toNat
  | none => 0

/-- The machine and its arrays (R7, R23, R25, R26, R27): the parameters are an instantiation the spec admits, and the arrays have
the lengths they give. -/
structure State.ShapeInv (s : State) : Prop where
  legal : s.params.Legal
  typeLength : s.type.length = s.params.maxCount
  curLength : s.cur.length = s.params.maxCount
  prevLength : s.prev.length = s.params.maxCount
  rawLength : s.raw.length = s.params.maxBytes

/-- The configuration registers (R22, R23, R24, R26): COUNT is even and in [2, MAX_COUNT] when it holds a value, and holds one
exactly when the block is configured; TYPE and PREV hold values exactly below COUNT, and the types are legal. -/
structure State.ConfigInv (s : State) : Prop where
  countRange : ∀ c, s.count = some c → 2 ≤ c.toNat ∧ c.toNat ≤ s.params.maxCount ∧ c.toNat % 2 = 0
  phaseCount : s.phase = .unconfigured ↔ s.count = none
  inhibitCount : s.hasInh = none ↔ s.count = none
  typeBelow : ∀ i, i < s.switches → ∃ t, entryAt s.type i = some t ∧ t ∈ s.params.positionTypes
  typeAbove : ∀ i, s.switches ≤ i → entryAt s.type i = none
  prevBelow : ∀ i, i < s.switches → ∃ v, entryAt s.prev i = some v
  prevAbove : ∀ i, s.switches ≤ i → entryAt s.prev i = none

/-- How many switches the running poll has compared: those before the sequencer's place. -/
def State.committed (s : State) : Nat :=
  if s.mstep = 0xC then s.switches
  else if 0x7 ≤ s.mstep.toNat ∧ s.mstep.toNat ≤ 0xB then
    match s.i with
    | some i => i
    | none => 0
  else 0

/-- The state buffer (R25, R26, R38, R81): an entry of CUR equals the entry of PREV beside it, or nothing has been decoded
into it yet and PREV holds the sentinel; a decoded entry is an index of its switch's type; the switches before the sequencer's
place hold entries, and of those at and after it either none does (first poll after INIT) or all do. -/
structure State.BufferInv (s : State) : Prop where
  snapshot : ∀ i, entryAt s.cur i = entryAt s.prev i ∨
    (entryAt s.cur i = none ∧ entryAt s.prev i = some s.params.sentinel)
  indexRange : ∀ i v t, entryAt s.cur i = some v → entryAt s.type i = some t → v < t
  doneBelow : ∀ i, i < s.committed → entryAt s.cur i ≠ none
  restAlike : (∀ i, s.committed ≤ i → i < s.switches → entryAt s.cur i = none) ∨
    (∀ i, s.committed ≤ i → i < s.switches → entryAt s.cur i ≠ none)

/-- How many bytes of RAW the running poll has filled. -/
def State.rawFilled (s : State) : Nat :=
  if s.mstep.toNat ≤ 0x3 then 0
  else if s.mstep.toNat ≤ 0x5 then
    match s.k with
    | some k => k
    | none => 0
  else s.switches / 2

/-- How many bits of ACC the running byte has filled, counted from bit 7 down. -/
def State.bitsFilled (s : State) : Nat :=
  if s.mstep = 0x5 then 8
  else match s.j with
    | some j => j.val
    | none => 0

/-- The sequencer (R21, R27 to R30, R37, R160): the phase is that of the micro-step to come, and every element that micro-step
reads holds a value. -/
structure State.SeqInv (s : State) : Prop where
  rest : s.mstep = 0x0 ↔ s.phase.busy = false
  phase : s.mstep ≠ 0x0 → s.mstep.toNat ≤ 0xC ∧ s.phase = phaseOfMicro s.mstep
  rawBytes : ∀ k, entryAt s.raw k ≠ none ↔ k < s.rawFilled
  byteIndex : s.mstep = 0x4 ∨ s.mstep = 0x5 → ∃ k, s.k = some k ∧ k < s.switches / 2
  bitIndex : s.mstep = 0x4 → s.j ≠ none
  accBits : s.mstep = 0x4 ∨ s.mstep = 0x5 → ∀ b : Fin 8, s.acc[b] ≠ none ↔ 8 ≤ s.bitsFilled + b.val
  switchIndex : 0x7 ≤ s.mstep.toNat → s.mstep.toNat ≤ 0xB → ∃ i, s.i = some i ∧ i < s.switches
  flag : 0x7 ≤ s.mstep.toNat → s.chg ≠ none
  codeHeld : s.code ≠ none ↔ s.mstep = 0x8 ∨ s.mstep = 0x9 ∨ s.mstep = 0xA
  decoder : ∀ i, s.i = some i → s.code ≠ none → (entryAt s.type i).bind decoderFor = some s.mstep
  idxHeld : s.idx ≠ none ↔ s.mstep = 0xB
  idxRange : ∀ x i t, s.idx = some x → s.i = some i → entryAt s.type i = some t → x.toNat < t

/-- The lines of a configured block between steps (R31 to R33): LATCH_O rests at 1 and CLK_O at 0; a configured inhibit line is
asserted from INH_ASSERT to INH_RELEASE and deasserted otherwise. -/
structure State.LineInv (s : State) : Prop where
  latch : s.phase ≠ .unconfigured → s.latchO = .driven true
  clock : s.phase ≠ .unconfigured → s.clkO = .driven false
  inhibit : s.hasInh = some true →
    s.inhO = .driven (if s.mstep = 0x2 ∨ s.mstep = 0x3 then s.params.inhActive else !s.params.inhActive)

/-- The invariant of the block. -/
structure State.Inv (s : State) : Prop where
  shape : s.ShapeInv
  config : s.ConfigInv
  buffer : s.BufferInv
  seq : s.SeqInv
  lines : s.LineInv

/-- The answer the environment is going to give to the m-th sample from this state on (R220). -/
def State.serialAt (s : State) (m : Nat) : Bit := s.serial.getD m (Config.serialBit (s.draws + m))

/-- The code of switch `i` in the frame that begins with the next sample: bit 3 - (m mod 4) of code m div 4 is sample m (R55). -/
def State.frameCode (s : State) (i : Nat) : Nibble :=
  BitVec.ofBoolListBE [s.serialAt (4 * i), s.serialAt (4 * i + 1), s.serialAt (4 * i + 2), s.serialAt (4 * i + 3)]

/-- The index a code stands for on a switch of the given type (R145). -/
def indexOf (t : Nat) (code : Nibble) : Nibble :=
  if t = 0x10 then grayIndex code else if t = 0x0C then lut12Index code else lut8Index code

/-- The entry switch `i` of type `t` gets from the frame that begins with the next sample (R165). -/
def State.frameEntry (s : State) (i : Nat) (t : Nat) : Nat :=
  storedIndex s.params (indexOf t (s.frameCode i))

/-- How many micro-steps a poll of `n` switches takes: 3 + 9·(n/2) for sampling (R108), CLEAR_CHG, three a switch, POLL_DONE (R160). -/
def pollSteps (n : Nat) : Nat := (3 + 9 * (n / 2)) + 1 + 3 * n + 1

/-- A state from which the block runs undisturbed: no fault, and the host presents nothing. -/
def State.Quiet (s : State) : Prop := s.fault = none ∧ s.host = []

end Sys2Proof.Machine
end

