-- ==== Sys2Proof/Certificates/Slice0/Obligations.lean ====
section
/-!
DEFINITION. The statements for the provers. Each one's docstring names the rules of spec/ it formalises. A statement about one
instruction gives its next state as the block of 10_state.md R20 with the elements the instruction writes replaced, so it says the
instruction's frame as well: every element not named is unchanged.
-/

open Sys2Proof Sys2Proof.Machine

/-! ## Encoding -/

/-- R7: the parameters are fields the machine carries, with the stated values as their defaults, which the state after reset has; a
switch code has 4 bits whatever they are. -/
def Obligations.ParameterDefaults : Prop :=
  let ps := State.reset.params
  (∀ qs : Params, (State.resetWith qs).params = qs) ∧
  ps.maxCount = 100 ∧ ps.maxBytes = ps.maxCount / 2 ∧ ps.maxBytes = 50 ∧ ps.settleMicros = 50 ∧ ps.entryWidth = 8 ∧
  ps.sentinel = 0xFF ∧ ps.sentinel = 2 ^ ps.entryWidth - 1 ∧ ps.countInWidth = 16 ∧ ps.typeWidth = 8 ∧
  ps.inhActive = true ∧ ps.allocMayFail = true ∧ (∀ t : Nat, t ∈ ps.positionTypes ↔ (t = 8 ∨ t = 12 ∨ t = 16)) ∧
  (∀ c : Nibble, c.toNat < 2 ^ 4) ∧ (∀ n : Nat, n < 2 ^ 4 → ∃ c : Nibble, c.toNat = n)

/-- R71, R72, R85: a few words, written out bit by bit, and the instructions they stand for. -/
def Obligations.WordsDecodeAsTabulated : Prop :=
  ∀ ps : Params,
    (∀ r : InitRecord, r.typeIn.length = ps.maxCount → r.countIn < 2 ^ ps.countInWidth → (∀ t ∈ r.typeIn, t < 2 ^ ps.typeWidth) →
      decode ps (.command ⟨0b0000000000000001#16, r⟩) = .ok (.init r)) ∧
    (∀ r, decode ps (.command ⟨0b0000000000000010#16, r⟩) = .ok .poll) ∧
    (∀ r, decode ps (.command ⟨0b0000001100000011#16, r⟩) = .ok (.rdcur 3)) ∧
    (∀ r, decode ps (.command ⟨0b0000000000000100#16, r⟩) = .ok .rdcnt) ∧
    decode ps (.micro 0b0001#4) = .ok .inhAssert ∧ decode ps (.micro 0b0100#4) = .ok .shiftBit ∧
    decode ps (.micro 0b0111#4) = .ok .split ∧ decode ps (.micro 0b1000#4) = .ok .decodeGray ∧
    decode ps (.micro 0b1010#4) = .ok .decodeLut12 ∧ decode ps (.micro 0b1011#4) = .ok .compareCommit

/-- Every well-formed instruction is read back from its code, with every operand it has. -/
def Obligations.EveryInstructionReadBackFromItsCode : Prop :=
  ∀ (ps : Params) (i : Instr), i.wellFormed ps = true → decode ps (encode i) = .ok i

/-- What the decoder accepts is exactly the code of the instruction it answers (a command that takes no record may be presented
with any), and the instruction is well-formed. -/
def Obligations.AcceptedCodeIsTheInstructionsCode : Prop :=
  ∀ ps : Params,
    (∀ w r i, decode ps (.command ⟨w, r⟩) = .ok i →
      i.wellFormed ps = true ∧ i.hostIssuable = true ∧ ∃ q, encode i = .command ⟨w, q⟩ ∧ ∀ x, i = .init x → x = r) ∧
    (∀ id i, decode ps (.micro id) = .ok i → i.wellFormed ps = true ∧ i.hostIssuable = false ∧ encode i = .micro id)

/-- R73: a reserved OP raises F_RESERVED_OP, whatever ARG and whatever the block is doing. -/
def Obligations.ReservedOpcodeFaults : Prop :=
  ∀ (s : State) (w : CmdWord) (r : InitRecord),
    w.toNat % 256 ≠ 1 → w.toNat % 256 ≠ 2 → w.toNat % 256 ≠ 3 → w.toNat % 256 ≠ 4 →
    runCode (.command ⟨w, r⟩) s = .next { s with fault := some ⟨.reservedOp, w⟩ }

/-- R74: a non-zero ARG on INIT, POLL or RDCNT raises F_RESERVED_OP; RDCUR's ARG is its switch index, and one at or above COUNT is
out of range. -/
def Obligations.ArgumentFieldRules : Prop :=
  (∀ (s : State) (w : CmdWord) (r : InitRecord),
    (w.toNat % 256 = 1 ∨ w.toNat % 256 = 2 ∨ w.toNat % 256 = 4) → w.toNat / 256 ≠ 0 →
    runCode (.command ⟨w, r⟩) s = .next { s with fault := some ⟨.reservedOp, w⟩ }) ∧
  (∀ (ps : Params) (w : CmdWord) (r : InitRecord), w.toNat % 256 = 3 →
    decode ps (.command ⟨w, r⟩) = .ok (.rdcur (BitVec.ofNat 8 (w.toNat / 256)))) ∧
  (∀ (s : State) (i n : Byte), s.phase = .idle → s.count = some n → n.toNat ≤ i.toNat →
    ∃ t, exec (.rdcur i) s = .next t ∧ t.fault = some ⟨.indexRange, i ++ 0x03#8⟩)

/-- R85: the twelve micro-step ids, no other id names anything, and no command word is a micro-step. -/
def Obligations.MicroStepIdentifiers : Prop :=
  (encode .inhAssert = .micro 0x1 ∧ encode .latchPulse = .micro 0x2 ∧ encode .inhRelease = .micro 0x3 ∧
    encode .shiftBit = .micro 0x4 ∧ encode .storeByte = .micro 0x5 ∧ encode .clearChg = .micro 0x6 ∧
    encode .split = .micro 0x7 ∧ encode .decodeGray = .micro 0x8 ∧ encode .decodeLut8 = .micro 0x9 ∧
    encode .decodeLut12 = .micro 0xA ∧ encode .compareCommit = .micro 0xB ∧ encode .pollDone = .micro 0xC) ∧
  (∀ id : Nibble, (id = 0x0 ∨ 0xD ≤ id.toNat) → ∀ ps, decode ps (.micro id) = .error (.unnamedMStep id)) ∧
  (∀ ps p i, decode ps (.command p) = .ok i → i.hostIssuable = true) ∧
  (∀ (s : State) (i : Nat) (b : Byte) (t : Nat), s.i = some i → entryAt s.raw (i / 2) = some b → entryAt s.type i = some t →
    (t = 0x10 → ∃ u, exec .split s = .next u ∧ u.mstep = 0x8) ∧ (t = 0x08 → ∃ u, exec .split s = .next u ∧ u.mstep = 0x9) ∧
    (t = 0x0C → ∃ u, exec .split s = .next u ∧ u.mstep = 0xA))

/-! ## The sampling micro-steps -/

/-- R100. -/
def Obligations.InhAssertDrivesInhibitWhenConfigured : Prop :=
  ∀ (s : State) (h : Bit), s.hasInh = some h →
    ∃ t, exec .inhAssert s = .next t ∧
      t.block = { s.block with
        inhO := if h then .driven s.params.inhActive else s.inhO
        hist := s.hist ++ if h then [.drive .inhO s.params.inhActive] else [] } ∧
      t.mstep = 0x2 ∧ t.responses = s.responses

/-- R101. -/
def Obligations.LatchPulseGoesLowThenHigh : Prop :=
  ∀ s : State, ∃ t, exec .latchPulse s = .next t ∧
    t.block = { s.block with
      latchO := .driven true
      hist := s.hist ++ [.drive .latchO false, .settle, .drive .latchO true, .settle] } ∧
    t.mstep = 0x3 ∧ t.responses = s.responses

/-- R102. -/
def Obligations.InhReleaseStartsShifting : Prop :=
  ∀ (s : State) (h : Bit), s.hasInh = some h →
    ∃ t, exec .inhRelease s = .next t ∧
      t.block = { s.block with
        inhO := if h then .driven (!s.params.inhActive) else s.inhO
        hist := s.hist ++ if h then [.drive .inhO (!s.params.inhActive)] else []
        phase := .shifting, k := some 0, j := some 0, acc := t.acc } ∧
      (∀ b : Fin 8, t.acc[b] = none) ∧
      t.mstep = 0x4 ∧ t.responses = s.responses

/-- R103: the bit sampled goes to ACC[7 - J] and to HIST, the clock is pulsed, and after the eighth bit the byte is stored. The
bit is any bit: `s.serialDraw` is the environment's answer. -/
def Obligations.ShiftBitSamplesThenPulsesClock : Prop :=
  ∀ (s : State) (j : Fin 8), s.j = some j →
    ∃ t, exec .shiftBit s = .next t ∧
      t.block = { s.block with
        acc := t.acc
        j := if j.val < 7 then some (j + 1) else some j
        clkO := .driven false
        hist := s.hist ++
          [.sample s.serialDraw, .drive .clkO true, .settle, .drive .clkO false, .settle] } ∧
      (∀ b : Fin 8, t.acc[b] = if b.val + j.val = 7 then some s.serialDraw else s.acc[b]) ∧
      t.mstep = (if j.val < 7 then 0x4 else 0x5) ∧ t.responses = s.responses

/-- R103's "After the 8th SHIFT_BIT of a byte every bit of ACC is defined", which the spec marks as derived from the rule with
J = 0..7, as one step and as the whole byte: eight SHIFT_BITs from J = 0 fill ACC with the eight bits drawn, first bit in bit 7. -/
def Obligations.EightShiftsDefineAccumulator : Prop :=
  (∀ (s t : State) (j : Fin 8), s.j = some j → exec .shiftBit s = .next t →
    (∀ b : Fin 8, 7 < b.val + j.val → s.acc[b] ≠ none) → ∀ b : Fin 8, 7 ≤ b.val + j.val → t.acc[b] ≠ none) ∧
  (∀ s0 : State, s0.j = some 0 →
    ∃ s1 s2 s3 s4 s5 s6 s7 s8, exec .shiftBit s0 = .next s1 ∧ exec .shiftBit s1 = .next s2 ∧ exec .shiftBit s2 = .next s3 ∧
      exec .shiftBit s3 = .next s4 ∧ exec .shiftBit s4 = .next s5 ∧ exec .shiftBit s5 = .next s6 ∧
      exec .shiftBit s6 = .next s7 ∧ exec .shiftBit s7 = .next s8 ∧ s8.mstep = 0x5 ∧
      ∀ b : Fin 8, s8.acc[b] = some (s0.serialAt (7 - b.val)))

/-- R104: the byte whose bits ACC holds goes to RAW[K], and the next byte or the Decoding phase begins. -/
def Obligations.StoreByteCommitsAccumulator : Prop :=
  ∀ (s : State) (v n : Byte) (k : Nat),
    (∀ b : Fin 8, s.acc[b] = some (v.getLsbD b.val)) → s.k = some k → s.count = some n → k < s.raw.length →
    ∃ t, exec .storeByte s = .next t ∧
      t.block = { s.block with
        raw := t.raw, acc := t.acc, j := some 0
        k := some (if k + 1 < n.toNat / 2 then k + 1 else k)
        phase := if k + 1 < n.toNat / 2 then s.phase else .decoding } ∧
      t.raw.length = s.raw.length ∧ (∀ m, entryAt t.raw m = if m = k then some v else entryAt s.raw m) ∧
      (∀ b : Fin 8, t.acc[b] = none) ∧
      t.mstep = (if k + 1 < n.toNat / 2 then 0x4 else 0x6) ∧ t.responses = s.responses

/-! ## The splitter and the decoders -/

/-- R120: SPLIT hands on bits 7:4 of RAW[I div 2] for an even I and bits 3:0 for an odd one, and goes to the decoder of the
switch's type. -/
def Obligations.SplitSelectsNibbleOfSwitch : Prop :=
  ∀ (s : State) (i : Nat) (b : Byte) (t : Nat),
    s.i = some i → entryAt s.raw (i / 2) = some b → entryAt s.type i = some t → (t = 0x08 ∨ t = 0x0C ∨ t = 0x10) →
    ∃ u, exec .split s = .next u ∧ u.block = s.block ∧ u.responses = s.responses ∧
      u.code = some (if i % 2 = 0 then BitVec.ofNat 4 (b.toNat / 16) else BitVec.ofNat 4 (b.toNat % 16)) ∧
      u.mstep = (if t = 0x10 then 0x8 else if t = 0x08 then 0x9 else 0xA)

/-- R130: the index is what the rule's loop leaves, round by round: from n = code and m = code >> 1, while m is not 0,
n <- n ^ m and m <- m >> 1; the loop ends after the number of rounds the rule gives. No element of the block changes. -/
def Obligations.DecodeGrayConvertsReflectedBinary : Prop :=
  ∀ (s : State) (c : Nibble), s.code = some c →
    ∃ t, exec .decodeGray s = .next t ∧ t.block = s.block ∧ t.responses = s.responses ∧ t.mstep = 0xB ∧
      ∃ (rounds : Nat) (n m : Nat → Nibble),
        n 0 = c ∧ m 0 = c >>> 1 ∧
        (∀ r, r < rounds → m r ≠ 0 ∧ n (r + 1) = n r ^^^ m r ∧ m (r + 1) = m r >>> 1) ∧ m rounds = 0 ∧
        t.idx = some (n rounds) ∧
        rounds = (if c.toNat < 2 then 0 else if c.toNat < 4 then 1 else if c.toNat < 8 then 2 else 3)

/-- R131, which the spec marks as derived from R130: the closed form, and bit by bit; and DECODE_GRAY's index in that form. -/
def Obligations.GrayIndexClosedForm : Prop :=
  (∀ g : Nibble,
    grayIndex g = g ^^^ (g >>> 1) ^^^ (g >>> 2) ^^^ (g >>> 3) ∧
    (grayIndex g).getLsbD 3 = g.getLsbD 3 ∧
    (grayIndex g).getLsbD 2 = (g.getLsbD 3 ^^ g.getLsbD 2) ∧
    (grayIndex g).getLsbD 1 = (g.getLsbD 3 ^^ g.getLsbD 2 ^^ g.getLsbD 1) ∧
    (grayIndex g).getLsbD 0 = (g.getLsbD 3 ^^ g.getLsbD 2 ^^ g.getLsbD 1 ^^ g.getLsbD 0)) ∧
  ∀ (s : State) (c : Nibble), s.code = some c →
    ∃ t, exec .decodeGray s = .next t ∧ t.idx = some (c ^^^ (c >>> 1) ^^^ (c >>> 2) ^^^ (c >>> 3))

/-- R132, which the spec marks as derived from R130: the complete table. -/
def Obligations.GrayIndexTable : Prop :=
  (List.range 16).map (fun g => (grayIndex (BitVec.ofNat 4 g)).toNat) =
    [0, 1, 3, 2, 7, 6, 4, 5, 15, 14, 12, 13, 8, 9, 11, 10]

/-- R133, which the spec marks as derived from R132: the conversion is a bijection with inverse b ^ (b >> 1), keeps 0, and consecutive indices have codes one bit apart. -/
def Obligations.GrayIndexIsBijective : Prop :=
  Function.Bijective grayIndex ∧ grayIndex 0x0 = 0 ∧
  (∀ b : Nibble, grayIndex (b ^^^ (b >>> 1)) = b) ∧
  (∀ b : Nibble, ∃ m : Fin 4, (b ^^^ (b >>> 1)) ^^^ ((b + 1) ^^^ ((b + 1) >>> 1)) = BitVec.twoPow 4 m.val)

/-- R140: the 8-position table, and 0 for every code outside it; no element of the block changes. -/
def Obligations.DecodeLut8FollowsTable : Prop :=
  ∀ (s : State) (c : Nibble), s.code = some c →
    ∃ t x, exec .decodeLut8 s = .next t ∧ t.block = s.block ∧ t.responses = s.responses ∧ t.mstep = 0xB ∧
      t.idx = some x ∧
      (∀ e ∈ [((0x0 : Nibble), (0 : Nibble)), (0x4, 1), (0xC, 2), (0xE, 3), (0x6, 4), (0x7, 5), (0x3, 6), (0x2, 7)],
        c = e.1 → x = e.2) ∧
      (c ∉ [(0x0 : Nibble), 0x4, 0xC, 0xE, 0x6, 0x7, 0x3, 0x2] → x = 0)

/-- R142: the 12-position table, and 0 for every code outside it; no element of the block changes. -/
def Obligations.DecodeLut12FollowsTable : Prop :=
  ∀ (s : State) (c : Nibble), s.code = some c →
    ∃ t x, exec .decodeLut12 s = .next t ∧ t.block = s.block ∧ t.responses = s.responses ∧ t.mstep = 0xB ∧
      t.idx = some x ∧
      (∀ e ∈ [((0x0 : Nibble), (0 : Nibble)), (0x8, 1), (0xC, 2), (0x4, 3), (0x6, 4), (0xE, 5), (0xA, 6), (0x2, 7),
        (0x3, 8), (0xB, 9), (0x9, 10), (0x1, 11)], c = e.1 → x = e.2) ∧
      (c ∉ [(0x0 : Nibble), 0x8, 0xC, 0x4, 0x6, 0xE, 0xA, 0x2, 0x3, 0xB, 0x9, 0x1] → x = 0)

/-- R145: the switch's code is decoded by its type. That the dispatch is the micro-step SPLIT goes to is the model's reading
(log 18). -/
def Obligations.DispatchDecodesByPositionType : Prop :=
  ∀ (s : State) (i : Nat) (b : Byte) (ty : Nat),
    s.i = some i → entryAt s.raw (pairByte i) = some b → entryAt s.type i = some ty → (ty = 0x08 ∨ ty = 0x0C ∨ ty = 0x10) →
    ∃ t d u, exec .split s = .next t ∧ decode t.params (.micro t.mstep) = .ok d ∧ exec d t = .next u ∧
      u.block = s.block ∧ u.mstep = 0xB ∧
      (ty = 0x10 → u.idx = some (grayIndex (codeOf b i))) ∧
      (ty = 0x0C → u.idx = some (lut12Index (codeOf b i))) ∧
      (ty = 0x08 → u.idx = some (lut8Index (codeOf b i)))

/-- R146, R147, which the spec marks as derived from R140 to R143: each table is a bijection on its defined codes with the inverse given, the codes of cyclically consecutive indices
differ in one bit, and no decoder's result is the sentinel. -/
def Obligations.TablesAreCyclicGrayCodes : Prop :=
  let codes8 : List Nibble := [0x0, 0x4, 0xC, 0xE, 0x6, 0x7, 0x3, 0x2]
  let codes12 : List Nibble := [0x0, 0x8, 0xC, 0x4, 0x6, 0xE, 0xA, 0x2, 0x3, 0xB, 0x9, 0x1]
  codes8.map lut8Index = [0, 1, 2, 3, 4, 5, 6, 7] ∧ codes8.Nodup ∧
  codes12.map lut12Index = [0, 1, 2, 3, 4, 5, 6, 7, 8, 9, 10, 11] ∧ codes12.Nodup ∧
  (∀ j : Fin 8, ∃ m : Fin 4,
    codes8.getD j.val 0 ^^^ codes8.getD ((j.val + 1) % 8) 0 = BitVec.twoPow 4 m.val) ∧
  (∀ j : Fin 12, ∃ m : Fin 4,
    codes12.getD j.val 0 ^^^ codes12.getD ((j.val + 1) % 12) 0 = BitVec.twoPow 4 m.val) ∧
  (∀ (ps : Params) (c : Nibble), ps.Legal → storedIndex ps (grayIndex c) ≠ ps.sentinel ∧
    storedIndex ps (lut8Index c) ≠ ps.sentinel ∧ storedIndex ps (lut12Index c) ≠ ps.sentinel)

/-! ## The state buffer -/

/-- R161. -/
def Obligations.ClearChgStartsSwitchLoop : Prop :=
  ∀ s : State, ∃ t, exec .clearChg s = .next t ∧
    t.block = { s.block with chg := some false, i := some 0 } ∧ t.mstep = 0x7 ∧ t.responses = s.responses

/-- R163: the entry of switch I is written, compared with the snapshot and, where it differs, flagged and snapshotted; the
sentinel always differs. The parameters are an instantiation the spec admits (R7; log 12), as the defaults are. -/
def Obligations.CompareCommitUpdatesEntryAndSnapshot : Prop :=
  ∀ (s : State) (x : Nibble) (i old : Nat) (n : Byte),
    s.params.Legal → s.idx = some x → s.i = some i → i < s.cur.length → entryAt s.prev i = some old → s.count = some n →
    ∃ t, exec .compareCommit s = .next t ∧
      t.block = { s.block with
        cur := t.cur, prev := t.prev
        i := some (if i + 1 < n.toNat then i + 1 else i)
        chg := if x.toNat = old then s.chg else some true
        phase := if i + 1 < n.toNat then .decoding else .compareAndCommit } ∧
      t.cur.length = s.cur.length ∧ t.prev.length = s.prev.length ∧
      (∀ m, entryAt t.cur m = if m = i then some x.toNat else entryAt s.cur m) ∧
      (∀ m, entryAt t.prev m = if m = i then some x.toNat else entryAt s.prev m) ∧
      (old = s.params.sentinel → t.chg = some true) ∧
      t.mstep = (if i + 1 < n.toNat then 0x7 else 0xC) ∧ t.responses = s.responses

/-- R164. -/
def Obligations.PollDoneRespondsWithFlag : Prop :=
  ∀ (s : State) (c : Bit), s.chg = some c →
    ∃ t, exec .pollDone s = .next t ∧
      t.block = { s.block with raw := t.raw, phase := .idle } ∧ (∀ k, entryAt t.raw k = none) ∧
      t.raw.length = s.params.maxBytes ∧
      t.responses = s.responses ++ [.changed c]

/-! ## The host commands -/

/-- R182: the normalised count, and the values the rule lists, at the default ceiling of 100 (R7). -/
def Obligations.CountNormalisation : Prop :=
  (∀ (ps : Params) (c : Nat), normalise ps c = min (c + c % 2) ps.maxCount) ∧
  (∀ c : Nat, normalise State.reset.params c = min (c + c % 2) 100) ∧
  [5, 6, 99, 100, 101, 1, 0, 65535].map (normalise State.reset.params) = [6, 6, 100, 100, 100, 2, 0, 100]

/-- R182's "clamping first and raising second gives the same result for every c", which the spec marks as derived from the rule,
for every even ceiling. -/
def Obligations.ClampingOrderIsIndifferent : Prop :=
  ∀ (ps : Params) (c : Nat), ps.Legal → normalise ps c = min c ps.maxCount + min c ps.maxCount % 2

/-- R185, R190: INIT with a non-zero count, legal types and no allocation failure configures the block. The legal types are the
parameter position types, {8, 12, 16} by default, and the ceiling is MAX_COUNT, 100 by default (R7); the parameters are an instantiation
the spec admits (log 12), as the defaults are. -/
def Obligations.InitConfiguresBlock : Prop :=
  ∀ (s : State) (r : InitRecord) (n : Nat),
    s.params.Legal → (s.phase = .idle ∨ s.phase = .unconfigured) → n = min (r.countIn + r.countIn % 2) s.params.maxCount → n ≠ 0 →
    (∀ i, i < n → ∃ ty, r.typeIn[i]? = some ty ∧ ty ∈ s.params.positionTypes) →
    (s.params.allocMayFail = false ∨ s.allocDraw = true) →
    ∃ t, exec (.init r) s = .next t ∧
      t.count.map BitVec.toNat = some n ∧ t.hasInh = some r.hasInhIn ∧ t.phase = .idle ∧
      (∀ i, i < n → entryAt t.type i = r.typeIn[i]? ∧ entryAt t.prev i = some s.params.sentinel) ∧
      (∀ i, n ≤ i → entryAt t.type i = none ∧ entryAt t.prev i = none) ∧
      (∀ i, entryAt t.cur i = none) ∧ (∀ k, entryAt t.raw k = none) ∧ t.ShapeInv ∧
      (∀ b : Fin 8, t.acc[b] = none) ∧ t.chg = none ∧ t.k = none ∧ t.j = none ∧ t.i = none ∧
      t.latchO = .driven true ∧ t.clkO = .driven false ∧
      t.inhO = (if r.hasInhIn then .driven (!s.params.inhActive) else s.inhO) ∧ t.fault = s.fault ∧
      t.hist = s.hist ++ [.configOut .latchO, .configOut .clkO] ++ (if r.hasInhIn then [.configOut .inhO] else []) ++
        [.configIn, .drive .latchO true, .drive .clkO false] ++
        (if r.hasInhIn then [.drive .inhO (!s.params.inhActive)] else []) ∧
      t.responses = s.responses ++ [.ok true]

/-- R186, R207, R211: an INIT that fails, and why: the first reason that applies. The legal types and the ceiling are the
parameters of R7, an instantiation the spec admits (log 12), as the defaults are. -/
def Obligations.InitFailureDiscardsEverything : Prop :=
  ∀ (s : State) (r : InitRecord) (n : Nat) (q : InitFailure),
    s.params.Legal → (s.phase = .idle ∨ s.phase = .unconfigured) → n = min (r.countIn + r.countIn % 2) s.params.maxCount →
    r.typeIn.length = s.params.maxCount →
    ((n = 0 ∧ q = .zeroCount) ∨
      (n ≠ 0 ∧ (∃ i ty, i < n ∧ r.typeIn[i]? = some ty ∧ ty ∉ s.params.positionTypes) ∧ q = .badType) ∨
      (n ≠ 0 ∧ (∀ i, i < n → ∃ ty, r.typeIn[i]? = some ty ∧ ty ∈ s.params.positionTypes) ∧
        s.params.allocMayFail = true ∧ s.allocDraw = false ∧ q = .alloc)) →
    ∃ t, exec (.init r) s = .next t ∧
      t.count = none ∧ t.hasInh = none ∧ t.phase = .unconfigured ∧
      (∀ i, entryAt t.type i = none ∧ entryAt t.cur i = none ∧ entryAt t.prev i = none) ∧
      (∀ k, entryAt t.raw k = none) ∧ t.ShapeInv ∧ (∀ b : Fin 8, t.acc[b] = none) ∧
      t.chg = none ∧ t.k = none ∧ t.j = none ∧ t.i = none ∧
      t.latchO = s.latchO ∧ t.clkO = s.clkO ∧ t.inhO = s.inhO ∧ t.fault = s.fault ∧ t.hist = s.hist ∧
      t.reason = some q ∧ t.responses = s.responses ++ [.ok false]

/-- R187, R160: an accepted POLL changes PHASE to Latching, nothing else, and INH_ASSERT comes next; it responds at its end. -/
def Obligations.PollStartsLatching : Prop :=
  ∀ s : State, s.phase = .idle →
    ∃ t, exec .poll s = .next t ∧ t.block = { s.block with phase := .latching } ∧ t.mstep = 0x1 ∧
      t.responses = s.responses

/-- R188: RDCUR in every case. -/
def Obligations.RdcurReturnsCurrentEntry : Prop :=
  (∀ (ps : Params) (i : Byte) (r : InitRecord), decode ps (.command ⟨i ++ 0x03#8, r⟩) = .ok (.rdcur i)) ∧
  (∀ (s : State) (i : Byte), (s.phase = .latching ∨ s.phase = .shifting ∨ s.phase = .decoding ∨ s.phase = .compareAndCommit) →
    exec (.rdcur i) s = .next { s with fault := some ⟨.busy, i ++ 0x03#8⟩ }) ∧
  (∀ (s : State) (i : Byte), s.phase = .unconfigured →
    exec (.rdcur i) s = .next { s with fault := some ⟨.notConfigured, i ++ 0x03#8⟩ }) ∧
  (∀ (s : State) (i n : Byte), s.phase = .idle → s.count = some n → n.toNat ≤ i.toNat →
    exec (.rdcur i) s = .next { s with fault := some ⟨.indexRange, i ++ 0x03#8⟩ }) ∧
  (∀ (s : State) (i n : Byte), s.phase = .idle → s.count = some n → i.toNat < n.toNat → entryAt s.cur i.toNat = none →
    exec (.rdcur i) s = .next { s with fault := some ⟨.unwrittenRead, i ++ 0x03#8⟩ }) ∧
  (∀ (s : State) (i n : Byte) (v : Nat), s.phase = .idle → s.count = some n → i.toNat < n.toNat →
    entryAt s.cur i.toNat = some v →
    exec (.rdcur i) s = .next { s with responses := s.responses ++ [.cur v] } ∧ (s.Inv → v ≤ 0x0F))

/-- R189: RDCNT in every case. -/
def Obligations.RdcntReturnsEffectiveCount : Prop :=
  (∀ ps r, decode ps (.command ⟨0x0004, r⟩) = .ok .rdcnt) ∧
  (∀ (s : State) (w : CmdWord) (r : InitRecord), w.toNat % 256 = 4 → w.toNat / 256 ≠ 0 →
    runCode (.command ⟨w, r⟩) s = .next { s with fault := some ⟨.reservedOp, w⟩ }) ∧
  (∀ s : State, (s.phase = .latching ∨ s.phase = .shifting ∨ s.phase = .decoding ∨ s.phase = .compareAndCommit) →
    exec .rdcnt s = .next { s with fault := some ⟨.busy, 0x0004⟩ }) ∧
  (∀ s : State, s.phase = .unconfigured → exec .rdcnt s = .next { s with fault := some ⟨.notConfigured, 0x0004⟩ }) ∧
  (∀ (s : State) (n : Byte), s.phase = .idle → s.count = some n →
    exec .rdcnt s = .next { s with responses := s.responses ++ [.count n] } ∧
      (s.Inv → n.toNat % 2 = 0 ∧ 2 ≤ n.toNat ∧ n.toNat ≤ s.params.maxCount))

/-- R51: the outcome of a command, its response and its fault, what it leaves for the host to read next (COUNT and CUR), and the
lines do not depend on PREV, RAW, ACC or TYPE. -/
def Obligations.CommandsDoNotReadPrivateStorage : Prop :=
  ∀ (i : Instr) (s t : State) (prev type : List (Option Nat)) (raw : List (Option Byte))
    (acc : Vector (Option Bit) 8),
    i.hostIssuable = true → exec i s = .next t →
    ∃ u, exec i { s with prev := prev, type := type, raw := raw, acc := acc } = .next u ∧
      u.responses = t.responses ∧ u.fault = t.fault ∧ u.phase = t.phase ∧ u.hist = t.hist ∧
      u.count = t.count ∧ u.cur = t.cur ∧ u.latchO = t.latchO ∧ u.clkO = t.clkO ∧ u.inhO = t.inhO

/-- R59: the two reads change nothing of the block but FAULT, and a read that answered answers the same again. -/
def Obligations.ReadsHaveNoSideEffect : Prop :=
  ∀ (i : Instr) (s t : State), (i = .rdcnt ∨ ∃ n, i = .rdcur n) → exec i s = .next t →
    t.block = { s.block with fault := t.fault } ∧
    ∀ v, t.responses = s.responses ++ [v] →
      t.fault = s.fault ∧ ∃ u, exec i t = .next u ∧ u.responses = t.responses ++ [v]

/-! ## Acceptance, faults, reset and the step -/

/-- R210: the order of the acceptance checks on a command word with its record (R75), and no further step once a fault is
recorded. -/
def Obligations.AcceptanceChecksInOrder : Prop :=
  (∀ (s t : State) (f : FaultRecord), s.fault = some f → (∀ rest, s.host ≠ .powerOn :: rest) → step s ≠ .next t) ∧
  ∀ (s : State) (w : CmdWord) (r : InitRecord) (op arg : Nat),
    r.wellFormed s.params = true → op = w.toNat % 256 → arg = w.toNat / 256 →
    let fails := fun f : FaultKind => runCode (.command ⟨w, r⟩) s = .next { s with fault := some ⟨f, w⟩ }
    let named := op = 3 ∨ ((op = 1 ∨ op = 2 ∨ op = 4) ∧ arg = 0)
    let busy := s.phase = .latching ∨ s.phase = .shifting ∨ s.phase = .decoding ∨ s.phase = .compareAndCommit
    (¬ named → fails .reservedOp) ∧
    (named → busy → fails .busy) ∧
    (named → s.phase = .unconfigured → op ≠ 1 → fails .notConfigured) ∧
    (∀ n : Byte, s.phase = .idle → s.count = some n → op = 3 → n.toNat ≤ arg → fails .indexRange) ∧
    (∀ n : Byte, s.phase = .idle → s.count = some n → op = 3 → arg < n.toNat →
      entryAt s.cur arg = none → fails .unwrittenRead)

/-- R212: an instruction that raises a model fault changes nothing but FAULT, which takes the command word; a state with FAULT other
than none has no further step unless power-on reset comes. (That the entry is a step and the stop the next one is the model's
reading, log 5.) -/
def Obligations.FaultEntryChangesOnlyFault : Prop :=
  (∀ (i : Instr) (s t : State), exec i s = .next t → t.fault ≠ s.fault →
    ∃ f w q, encode i = .command ⟨w, q⟩ ∧ t = { s with fault := some ⟨f, w⟩ }) ∧
  (∀ (s : State) (f : FaultRecord), s.fault = some f → (∀ rest, s.host ≠ .powerOn :: rest) →
    step s = .fault (.halted f.kind f.cmd))

/-- R9, R201: an instruction never reads an element that holds ⊥ silently: it stops by name. Only states outside the invariant have
one (logs 6 and 18). Likewise SPLIT of a switch whose type is none of R76's, a micro-step id that names nothing (R85), and a
record that is none of R75's (log 15). -/
def Obligations.UndefinedReadsStopByName : Prop :=
  ∀ s : State,
    (s.hasInh = none → exec .inhAssert s = .fault (.noValue .hasInh) ∧ exec .inhRelease s = .fault (.noValue .hasInh)) ∧
    (s.j = none → exec .shiftBit s = .fault (.noValue .j)) ∧
    ((∃ b : Fin 8, s.acc[b] = none) → exec .storeByte s = .fault (.noValue .acc)) ∧
    ((∀ b : Fin 8, s.acc[b] ≠ none) → (s.k = none → exec .storeByte s = .fault (.noValue .k)) ∧
      (s.k ≠ none → s.count = none → exec .storeByte s = .fault (.noValue .count))) ∧
    (s.i = none → exec .split s = .fault (.noValue .i)) ∧
    (∀ i, s.i = some i → (entryAt s.raw (i / 2) = none → exec .split s = .fault (.noValue .raw)) ∧
      (entryAt s.raw (i / 2) ≠ none → entryAt s.type i = none → exec .split s = .fault (.noValue .type)) ∧
      (∀ t, entryAt s.raw (i / 2) ≠ none → entryAt s.type i = some t → t ≠ 0x08 → t ≠ 0x0C → t ≠ 0x10 →
        exec .split s = .fault (.illegalType t))) ∧
    (s.code = none → exec .decodeGray s = .fault (.noValue .code) ∧ exec .decodeLut8 s = .fault (.noValue .code) ∧
      exec .decodeLut12 s = .fault (.noValue .code)) ∧
    (s.idx = none → exec .compareCommit s = .fault (.noValue .idx)) ∧
    (s.idx ≠ none → s.i = none → exec .compareCommit s = .fault (.noValue .i)) ∧
    (∀ i, s.idx ≠ none → s.i = some i →
      (entryAt s.prev i = none → exec .compareCommit s = .fault (.noValue .prev)) ∧
      (entryAt s.prev i ≠ none → s.count = none → exec .compareCommit s = .fault (.noValue .count))) ∧
    (s.chg = none → exec .pollDone s = .fault (.noValue .chg)) ∧
    (s.phase = .idle → s.count = none →
      exec .rdcnt s = .fault (.noValue .count) ∧ ∀ n, exec (.rdcur n) s = .fault (.noValue .count)) ∧
    (∀ id : Nibble, (id = 0x0 ∨ 0xD ≤ id.toNat) → runCode (.micro id) s = .fault (.unnamedMStep id)) ∧
    (∀ r : InitRecord, (r.typeIn.length ≠ s.params.maxCount ∨ 2 ^ s.params.countInWidth ≤ r.countIn ∨
      ∃ t ∈ r.typeIn, 2 ^ s.params.typeWidth ≤ t) → runCode (.command ⟨0x0001, r⟩) s = .refused .malformedRecord)

/-- R213: no step clears FAULT but power-on reset. -/
def Obligations.OnlyPowerOnClearsFault : Prop :=
  ∀ (s t : State) (f : FaultRecord), s.fault = some f → step s = .next t →
    t.fault = none ∧ ∃ rest, s.host = .powerOn :: rest

/-- R230: the state after power-on reset. -/
def Obligations.ResetValues : Prop :=
  let s := State.reset
  s.phase = .unconfigured ∧ s.count = none ∧ s.hasInh = none ∧
  s.type = List.replicate 100 none ∧ s.cur = List.replicate 100 none ∧ s.prev = List.replicate 100 none ∧
  s.raw = List.replicate 50 none ∧ (∀ b : Fin 8, s.acc[b] = none) ∧
  s.chg = none ∧ s.k = none ∧ s.j = none ∧ s.i = none ∧
  s.latchO = .z ∧ s.clkO = .z ∧ s.inhO = .z ∧ s.fault = none ∧ s.hist = []

/-- R215, R231: a power-on reset wins over everything, a poll and a fault included, gives no response, and leaves the reset state.
That the parameters and the environment's answers stay is the model's own (log 14). -/
def Obligations.PowerOnResetWins : Prop :=
  ∀ (s : State) (rest : List HostInput), s.host = .powerOn :: rest →
    ∃ t, step s = .next t ∧ t.block = (State.resetWith s.params).block ∧ t.responses = [] ∧ t.mstep = 0x0 ∧
      t.host = rest ∧ t.params = s.params ∧ t.serial = s.serial ∧ t.alloc = s.alloc ∧ t.draws = s.draws

/-- R61, R62, R180: a step runs the code it takes, whatever the code is (a reserved word too: R73, R74), and executes the
instruction the decoder reads from it: the command presented, the command issued to a free block, or the sequencer's micro-step in a
busy phase. How the host's inputs are listed is the model's own (log 2). -/
def Obligations.StepRunsDecodedInstruction : Prop :=
  (∀ s : State, s.fault = none →
    (∀ p rest, s.host = .present p :: rest → step s = runCode (.command p) { s with host := rest }) ∧
    (∀ p rest, s.host = .issue p :: rest → s.phase.busy = false → step s = runCode (.command p) { s with host := rest }) ∧
    (s.host = [] → s.phase.busy = true → step s = runCode (.micro s.mstep) s) ∧
    (∀ rest, s.host = .pause :: rest → s.phase.busy = true → step s = runCode (.micro s.mstep) { s with host := rest }) ∧
    (∀ p rest, s.host = .issue p :: rest → s.phase.busy = true → step s = runCode (.micro s.mstep) s)) ∧
  (∀ (s : State) (i : Instr), s.fault = none →
    (∀ p rest, s.host = .present p :: rest → decode s.params (.command p) = .ok i → step s = exec i { s with host := rest }) ∧
    (∀ p rest, s.host = .issue p :: rest → s.phase.busy = false → decode s.params (.command p) = .ok i →
      step s = exec i { s with host := rest }) ∧
    (s.host = [] → s.phase.busy = true → decode s.params (.micro s.mstep) = .ok i → step s = exec i s) ∧
    (∀ rest, s.host = .pause :: rest → s.phase.busy = true → decode s.params (.micro s.mstep) = .ok i →
      step s = exec i { s with host := rest }) ∧
    (∀ p rest, s.host = .issue p :: rest → s.phase.busy = true → decode s.params (.micro s.mstep) = .ok i →
      step s = exec i s))

/-- R224, R232: between commands the block waits and keeps all its state (that a wait is a step is the model's own, log 13). -/
def Obligations.FreeBlockWaits : Prop :=
  ∀ s : State, s.fault = none → (s.phase = .idle ∨ s.phase = .unconfigured) →
    (s.host = [] → step s = .next s) ∧ (∀ rest, s.host = .pause :: rest → step s = .next { s with host := rest })

/-- R240: a command the host issues when the block is busy waits: the step is the one without it (log 2). -/
def Obligations.IssuedCommandWaitsForPoll : Prop :=
  ∀ (s t : State) (p : Presented) (rest : List HostInput),
    s.host = .issue p :: rest → s.phase.busy = true → step { s with host := [] } = .next t →
    step s = .next { t with host := s.host }

/-! ## Who writes what -/

/-- R22, R23, R24: only INIT writes COUNT, TYPE and HAS_INH. -/
def Obligations.OnlyInitWritesConfiguration : Prop :=
  ∀ (i : Instr) (s t : State), exec i s = .next t → (∀ r, i ≠ .init r) →
    t.count = s.count ∧ t.type = s.type ∧ t.hasInh = s.hasInh

/-- R25, R26: only INIT and COMPARE_COMMIT write CUR and PREV, and COMPARE_COMMIT only the entry of switch I. -/
def Obligations.OnlyInitAndCommitWriteBuffer : Prop :=
  ∀ (i : Instr) (s t : State), exec i s = .next t → (∀ r, i ≠ .init r) →
    (i ≠ .compareCommit → t.cur = s.cur ∧ t.prev = s.prev) ∧
    (∀ m, s.i ≠ some m → entryAt t.cur m = entryAt s.cur m ∧ entryAt t.prev m = entryAt s.prev m)

/-- R29: CLEAR_CHG and COMPARE_COMMIT are the micro-steps that write CHG (INIT discards it), and only CLEAR_CHG and INIT take it
from 1. -/
def Obligations.ChangeFlagWriters : Prop :=
  ∀ (i : Instr) (s t : State), exec i s = .next t → (∀ r, i ≠ .init r) → i ≠ .clearChg →
    (i ≠ .compareCommit → t.chg = s.chg) ∧ (s.chg = some true → t.chg = some true)

/-- R27, R28, R30: which micro-steps write RAW, ACC and the counters (INIT discards them). -/
def Obligations.SequencerRegisterWriters : Prop :=
  ∀ (i : Instr) (s t : State), exec i s = .next t → (∀ r, i ≠ .init r) →
    (i ≠ .storeByte → i ≠ .pollDone → t.raw = s.raw) ∧
    (i ≠ .inhRelease → i ≠ .shiftBit → i ≠ .storeByte → t.acc = s.acc ∧ t.j = s.j) ∧
    (i ≠ .inhRelease → i ≠ .storeByte → t.k = s.k) ∧
    (i ≠ .clearChg → i ≠ .compareCommit → t.i = s.i)

/-- R31, R32, R33: which instructions drive each line; the inhibit line only when one is configured. -/
def Obligations.LineWriters : Prop :=
  ∀ (i : Instr) (s t : State), exec i s = .next t →
    ((∀ r, i ≠ .init r) → i ≠ .latchPulse → t.latchO = s.latchO) ∧
    ((∀ r, i ≠ .init r) → i ≠ .shiftBit → t.clkO = s.clkO) ∧
    ((∀ r, i ≠ .init r) → i ≠ .inhAssert → i ≠ .inhRelease → t.inhO = s.inhO) ∧
    ((∀ r, i ≠ .init r) → s.hasInh ≠ some true → t.inhO = s.inhO) ∧
    (∀ r, i = .init r → r.hasInhIn = false → t.inhO = s.inhO)

/-- R36: HIST only grows, and only by INIT and the sampling micro-steps. -/
def Obligations.HistoryOnlyGrows : Prop :=
  ∀ (i : Instr) (s t : State), exec i s = .next t →
    (∃ es, t.hist = s.hist ++ es) ∧
    ((∀ r, i ≠ .init r) → i ≠ .inhAssert → i ≠ .latchPulse → i ≠ .inhRelease → i ≠ .shiftBit → t.hist = s.hist)

/-- The model's own fields (logs 2 to 4, 9 to 11): the parameters and the host's inputs are written by no instruction; only
SHIFT_BIT takes a serial answer and only an accepted INIT an allocation answer (R181), each counted as one draw; a response is given at
most once an instruction, by INIT, RDCUR, RDCNT or POLL_DONE; only an accepted INIT writes the reason, none when it succeeds. -/
def Obligations.OwnFieldsFrame : Prop :=
  ∀ (i : Instr) (s t : State), exec i s = .next t →
    t.params = s.params ∧ t.host = s.host ∧
    (i ≠ .shiftBit → t.serial = s.serial) ∧
    (i = .shiftBit → t.serial = s.serial.tail ∧ t.draws = s.draws + 1) ∧
    (∀ r, i = .init r → (s.phase = .idle ∨ s.phase = .unconfigured) → t.alloc = s.alloc.tail ∧ t.draws = s.draws + 1 ∧
      (t.reason = none ↔ t.responses = s.responses ++ [.ok true])) ∧
    (∀ r, i = .init r → s.phase ≠ .idle → s.phase ≠ .unconfigured →
      t.alloc = s.alloc ∧ t.draws = s.draws ∧ t.reason = s.reason) ∧
    ((∀ r, i ≠ .init r) → t.alloc = s.alloc ∧ t.reason = s.reason) ∧
    (i ≠ .shiftBit → (∀ r, i ≠ .init r) → t.draws = s.draws) ∧
    (t.responses = s.responses ∨ ∃ v, t.responses = s.responses ++ [v]) ∧
    ((∀ r, i ≠ .init r) → (∀ n, i ≠ .rdcur n) → i ≠ .rdcnt → i ≠ .pollDone → t.responses = s.responses)

/-! ## Invariants -/

/-- The invariant holds after power-on reset, with the default parameters and with every instantiation the spec admits. -/
def Obligations.ResetSatisfiesInvariant : Prop := State.reset.Inv ∧ ∀ ps : Params, ps.Legal → (State.resetWith ps).Inv

/-- Every step keeps the invariant: COUNT stays even and in range, the types legal, an entry of CUR an index of its switch's type
equal to PREV, the sequencer's registers defined where they are read, the lines at rest between steps. -/
def Obligations.EveryStepKeepsInvariant : Prop :=
  ∀ s t : State, s.Inv → step s = .next t → t.Inv

/-- R108, R201: nothing stops a block whose state satisfies the invariant: without a recorded fault every step answers a next state
(the one input outside the spec, a record that is none of R75's, aside; log 15). -/
def Obligations.InvariantStatesAlwaysStep : Prop :=
  ∀ s : State, s.Inv → s.fault = none →
    (∀ w r rest, s.host = .present ⟨w, r⟩ :: rest ∨ s.host = .issue ⟨w, r⟩ :: rest → r.wellFormed s.params = true) →
    ∃ t, step s = .next t

/-- R38, which the spec marks as derived from R163 and R165: in Idle, once an entry has been decoded since INIT, PREV equals CUR for every switch, and all of them hold indices. -/
def Obligations.SnapshotEqualsCurrentBetweenPolls : Prop :=
  ∀ s : State, s.Inv → s.phase = .idle →
    (∃ i, i < s.switches ∧ entryAt s.cur i ≠ none) →
    ∀ i, i < s.switches → entryAt s.prev i = entryAt s.cur i ∧ ∃ v, entryAt s.cur i = some v ∧ v ≤ 15

/-- R169: the transitions of PHASE in one step. Within a step of COMPARE_COMMIT the phase passes through CompareAndCommit (log 16). -/
def Obligations.PhaseTransitions : Prop :=
  ∀ s t : State, s.Inv → step s = .next t →
    t.phase = s.phase ∨ (t.phase = .unconfigured ∧ ∃ rest, s.host = .powerOn :: rest) ∨
    (s.phase, t.phase) ∈ [(Phase.unconfigured, Phase.idle), (.idle, .unconfigured), (.idle, .latching), (.latching, .shifting),
      (.shifting, .decoding), (.decoding, .compareAndCommit), (.compareAndCommit, .idle)]

/-! ## Whole polls -/

/-- R78, R106, R108, which the spec marks as derived from R52, R53 and R105: the sampling phases of an undisturbed poll take 3 + 9·(COUNT/2) micro-steps, put sample m into bit
7 - (m mod 8) of RAW[m div 8], and append exactly the events R106 counts. -/
def Obligations.SamplingPhasesReceiveFrame : Prop :=
  ∀ (s : State) (n : Nat), s.Inv → s.Quiet → s.mstep = 0x1 → s.count.map BitVec.toNat = some n →
    ∃ t es, runFor (3 + 9 * (n / 2)) s = .next t ∧ t.phase = .decoding ∧ t.mstep = 0x6 ∧ t.responses = s.responses ∧
      (∀ m, m < 4 * n → ∃ v : Byte, entryAt t.raw (m / 8) = some v ∧ v.getLsbD (7 - m % 8) = s.serialAt m) ∧
      t.hist = s.hist ++ es ∧
      es.filterMap (fun e => match e with | .sample b => some b | _ => none) = (List.range (4 * n)).map s.serialAt ∧
      es.count (.drive .clkO true) = 4 * n ∧ es.count (.drive .clkO false) = 4 * n ∧
      es.count (.drive .latchO false) = 1 ∧ es.count (.drive .latchO true) = 1 ∧
      es.count (.drive .inhO true) + es.count (.drive .inhO false) = (if s.hasInh = some true then 2 else 0) ∧
      es.count .settle = 8 * n + 2 ∧
      es.length = 20 * n + (if s.hasInh = some true then 6 else 4)

/-- R165, R55, which the spec marks as derived from R161 to R163 and R52 to R54: an undisturbed poll runs to completion; every switch's CUR and PREV take the index its type decodes from its
code in the frame received, and the response is 1 exactly when some index differs from the snapshot before. -/
def Obligations.CompletedPollResult : Prop :=
  ∀ (s : State) (r : InitRecord), s.Inv → s.fault = none → s.phase = .idle → s.host = [.present ⟨0x0002, r⟩] →
    ∃ t c, runFor (1 + pollSteps s.switches) s = .next t ∧ t.phase = .idle ∧ t.Quiet ∧ t.Inv ∧
      (∀ i ty, i < s.switches → entryAt s.type i = some ty →
        entryAt t.cur i = some (s.frameEntry i ty) ∧ entryAt t.prev i = some (s.frameEntry i ty)) ∧
      t.count = s.count ∧ t.type = s.type ∧ (∀ k, entryAt t.raw k = none) ∧
      t.latchO = s.latchO ∧ t.clkO = s.clkO ∧ t.inhO = s.inhO ∧
      t.responses = s.responses ++ [.changed c] ∧
      (c = true ↔ ∃ i, i < s.switches ∧ entryAt t.cur i ≠ entryAt s.prev i)

/-- R167, which the spec marks as derived from R163 and R26: the first poll after a successful INIT responds 1 and leaves an index in every entry below the count, whatever the environment answers. -/
def Obligations.FirstPollReportsChange : Prop :=
  ∀ (s : State) (q : InitRecord) (r : InitRecord) (n : Nat),
    s.Inv → s.fault = none → (s.phase = .idle ∨ s.phase = .unconfigured) →
    s.host = [.issue ⟨0x0001, r⟩, .issue ⟨0x0002, q⟩] → r.wellFormed s.params = true →
    n = min (r.countIn + r.countIn % 2) s.params.maxCount → n ≠ 0 →
    (∀ i, i < n → ∃ ty, r.typeIn[i]? = some ty ∧ ty ∈ s.params.positionTypes) →
    (s.params.allocMayFail = false ∨ s.allocDraw = true) →
    ∃ t, runFor (2 + pollSteps n) s = .next t ∧ t.phase = .idle ∧
      t.responses = s.responses ++ [.ok true, .changed true] ∧ t.Inv ∧ t.count.map BitVec.toNat = some n ∧
      ∀ i, i < n → ∃ v, entryAt t.cur i = some v ∧ v ≤ 15

/-- R168, which the spec marks as derived from R165 and R160: a second poll that receives the same serial bits responds 0 and leaves every entry of CUR unchanged. -/
def Obligations.RepeatedPollReportsNoChange : Prop :=
  ∀ (s : State) (q r : InitRecord), s.Inv → s.fault = none → s.phase = .idle →
    s.host = [.issue ⟨0x0002, q⟩, .issue ⟨0x0002, r⟩] →
    (∀ m, m < 4 * s.switches → s.serialAt (4 * s.switches + m) = s.serialAt m) →
    ∃ t u, runFor (1 + pollSteps s.switches) s = .next t ∧ runFor (1 + pollSteps s.switches) t = .next u ∧
      u.responses = t.responses ++ [.changed false] ∧ u.cur = t.cur
end

