-- ==== Sys2Proof/Laws/Operands.lean ====
section
/-!
SUPPORT. What the operand forms give: entries of an array after a write, ranges and parity of the count, the filled arrays, the
accumulator, stored indices, the decoders' ranges.
-/

namespace Sys2Proof.Machine

/-! ### Entries of an array -/

@[simp] theorem setEntry_length {α : Type} (a : List (Option α)) (i : Nat) (v : α) : (setEntry a i v).length = a.length := by
  simp [setEntry]

@[simp] theorem undefinedArray_length {α : Type} (n : Nat) : (undefinedArray n : List (Option α)).length = n := by
  simp [undefinedArray]

@[simp] theorem filledBelow_length {α : Type} (len n : Nat) (f : Nat → α) : (filledBelow len n f).length = len := by
  simp [filledBelow]

/-- Read after write: the entry written holds the value, and every other entry is as before. -/
theorem entryAt_setEntry {α : Type} {a : List (Option α)} {i : Nat} (h : i < a.length) (v : α) (m : Nat) :
    entryAt (setEntry a i v) m = if m = i then some v else entryAt a m := by
  unfold entryAt setEntry
  rw [List.getElem?_set]
  by_cases hm : i = m
  · subst hm; simp [h]
  · simp [hm, Ne.symm hm]

@[simp] theorem entryAt_undefinedArray {α : Type} (n i : Nat) : entryAt (undefinedArray n : List (Option α)) i = none := by
  simp only [entryAt, undefinedArray, List.getElem?_replicate]; split <;> rfl

/-- An entry that holds a value is one of the array's. -/
theorem entryAt_lt {α : Type} {a : List (Option α)} {i : Nat} {v : α} (h : entryAt a i = some v) : i < a.length := by
  by_contra hl
  simp [entryAt, List.getElem?_eq_none (Nat.not_lt.1 hl)] at h

theorem filledBelow_below {α : Type} {len n : Nat} (f : Nat → α) {i : Nat} (h : i < n) (hl : n ≤ len) :
    entryAt (filledBelow len n f) i = some (f i) := by
  simp [entryAt, filledBelow, List.getElem?_range (show i < len by omega), h]

theorem filledBelow_above {α : Type} {len n : Nat} (f : Nat → α) {i : Nat} (h : n ≤ i) :
    entryAt (filledBelow len n f) i = none := by
  by_cases hl : i < len
  · simp [entryAt, filledBelow, List.getElem?_range hl, Nat.not_lt.2 h]
  · simp [entryAt, filledBelow, Nat.not_lt.1 hl]

/-! ### The INIT record -/

theorem normalise_le (ps : Params) (c : Nat) : normalise ps c ≤ ps.maxCount := Nat.min_le_right _ _

theorem normalise_even {ps : Params} (h : ps.Legal) (c : Nat) : normalise ps c % 2 = 0 := by
  have := h.ceilingEven
  simp only [normalise]; omega

theorem legalType_iff (ps : Params) (t : Nat) : legalType ps t = true ↔ t ∈ ps.positionTypes := by
  simp [legalType]

theorem typesLegal_iff (ps : Params) (r : InitRecord) (n : Nat) :
    typesLegal ps r n = true ↔ ∀ i, i < n → typeInAt r i ∈ ps.positionTypes := by
  simp [typesLegal, legalType]

/-! ### The decoders -/

theorem decoderFor_legal {ps : Params} (hp : ps.Legal) {t : Nat} (h : t ∈ ps.positionTypes) :
    (t = 0x10 ∧ decoderFor t = some 0x8) ∨ (t = 0x08 ∧ decoderFor t = some 0x9) ∨ (t = 0x0C ∧ decoderFor t = some 0xA) := by
  rcases (hp.typesDecoded t h).1 with rfl | rfl | rfl <;> decide

theorem lut8Index_lt (c : Nibble) : (lut8Index c).toNat < 8 := by revert c; decide

theorem lut12Index_lt (c : Nibble) : (lut12Index c).toNat < 12 := by revert c; decide

/-! ### The accumulator -/

theorem accByte_some {a : Vector (Option Bit) 8} (h : ∀ b : Fin 8, a[b] ≠ none) : ∃ v, accByte a = some v := by
  obtain ⟨b0, h0⟩ := Option.ne_none_iff_exists'.1 (h 0)
  obtain ⟨b1, h1⟩ := Option.ne_none_iff_exists'.1 (h 1)
  obtain ⟨b2, h2⟩ := Option.ne_none_iff_exists'.1 (h 2)
  obtain ⟨b3, h3⟩ := Option.ne_none_iff_exists'.1 (h 3)
  obtain ⟨b4, h4⟩ := Option.ne_none_iff_exists'.1 (h 4)
  obtain ⟨b5, h5⟩ := Option.ne_none_iff_exists'.1 (h 5)
  obtain ⟨b6, h6⟩ := Option.ne_none_iff_exists'.1 (h 6)
  obtain ⟨b7, h7⟩ := Option.ne_none_iff_exists'.1 (h 7)
  refine ⟨byteOfBits b7 b6 b5 b4 b3 b2 b1 b0, ?_⟩
  simp only [Fin.getElem_fin, Fin.isValue] at h0 h1 h2 h3 h4 h5 h6 h7
  simp_all [accByte]

/-! ### Stored indices -/

/-- An entry of an admitted width holds the index itself. -/
theorem storedIndex_eq {ps : Params} (h : ps.Legal) (x : Nibble) : storedIndex ps x = x.toNat := by
  have h5 : 2 ^ 5 ≤ 2 ^ ps.entryWidth := Nat.pow_le_pow_right (by omega) h.entryHolds
  have := x.isLt
  simp only [storedIndex, BitVec.toNat_setWidth]
  exact Nat.mod_eq_of_lt (by omega)

theorem sentinel_gt {ps : Params} (h : ps.Legal) : 15 < ps.sentinel := by
  have h5 : 2 ^ 5 ≤ 2 ^ ps.entryWidth := Nat.pow_le_pow_right (by omega) h.entryHolds
  rw [h.sentinelOnes]; omega

theorem storedIndex_ne_sentinel {ps : Params} (h : ps.Legal) (x : Nibble) : storedIndex ps x ≠ ps.sentinel := by
  rw [storedIndex_eq h]
  have := sentinel_gt h
  have := x.isLt
  omega

/-- The default parameters are an instantiation the spec admits. -/
theorem default_legal : ({} : Params).Legal := by
  refine ⟨?_, ?_, ?_, ?_, ?_, ?_⟩ <;> decide

end Sys2Proof.Machine
end

