-- ==== Sys2Proof/Laws/State.lean ====
section
/-!
SUPPORT. What each named update of the state does to each field: one lemma per field per update, so that no proof unfolds one.
-/

namespace Sys2Proof.Machine

variable (s : State)

/-! ### emit -/

@[simp] theorem emit_phase (es : List Event) : (s.emit es).phase = s.phase := rfl
@[simp] theorem emit_count (es : List Event) : (s.emit es).count = s.count := rfl
@[simp] theorem emit_type (es : List Event) : (s.emit es).type = s.type := rfl
@[simp] theorem emit_hasInh (es : List Event) : (s.emit es).hasInh = s.hasInh := rfl
@[simp] theorem emit_cur (es : List Event) : (s.emit es).cur = s.cur := rfl
@[simp] theorem emit_prev (es : List Event) : (s.emit es).prev = s.prev := rfl
@[simp] theorem emit_raw (es : List Event) : (s.emit es).raw = s.raw := rfl
@[simp] theorem emit_acc (es : List Event) : (s.emit es).acc = s.acc := rfl
@[simp] theorem emit_chg (es : List Event) : (s.emit es).chg = s.chg := rfl
@[simp] theorem emit_k (es : List Event) : (s.emit es).k = s.k := rfl
@[simp] theorem emit_j (es : List Event) : (s.emit es).j = s.j := rfl
@[simp] theorem emit_i (es : List Event) : (s.emit es).i = s.i := rfl
@[simp] theorem emit_latchO (es : List Event) : (s.emit es).latchO = s.latchO := rfl
@[simp] theorem emit_clkO (es : List Event) : (s.emit es).clkO = s.clkO := rfl
@[simp] theorem emit_inhO (es : List Event) : (s.emit es).inhO = s.inhO := rfl
@[simp] theorem emit_fault (es : List Event) : (s.emit es).fault = s.fault := rfl
@[simp] theorem emit_hist (es : List Event) : (s.emit es).hist = s.hist ++ es := rfl
@[simp] theorem emit_params (es : List Event) : (s.emit es).params = s.params := rfl
@[simp] theorem emit_mstep (es : List Event) : (s.emit es).mstep = s.mstep := rfl
@[simp] theorem emit_code (es : List Event) : (s.emit es).code = s.code := rfl
@[simp] theorem emit_idx (es : List Event) : (s.emit es).idx = s.idx := rfl
@[simp] theorem emit_reason (es : List Event) : (s.emit es).reason = s.reason := rfl
@[simp] theorem emit_responses (es : List Event) : (s.emit es).responses = s.responses := rfl
@[simp] theorem emit_host (es : List Event) : (s.emit es).host = s.host := rfl
@[simp] theorem emit_serial (es : List Event) : (s.emit es).serial = s.serial := rfl
@[simp] theorem emit_alloc (es : List Event) : (s.emit es).alloc = s.alloc := rfl
@[simp] theorem emit_draws (es : List Event) : (s.emit es).draws = s.draws := rfl

/-! ### settle -/

@[simp] theorem settle_phase : (s.settle).phase = s.phase := rfl
@[simp] theorem settle_count : (s.settle).count = s.count := rfl
@[simp] theorem settle_type : (s.settle).type = s.type := rfl
@[simp] theorem settle_hasInh : (s.settle).hasInh = s.hasInh := rfl
@[simp] theorem settle_cur : (s.settle).cur = s.cur := rfl
@[simp] theorem settle_prev : (s.settle).prev = s.prev := rfl
@[simp] theorem settle_raw : (s.settle).raw = s.raw := rfl
@[simp] theorem settle_acc : (s.settle).acc = s.acc := rfl
@[simp] theorem settle_chg : (s.settle).chg = s.chg := rfl
@[simp] theorem settle_k : (s.settle).k = s.k := rfl
@[simp] theorem settle_j : (s.settle).j = s.j := rfl
@[simp] theorem settle_i : (s.settle).i = s.i := rfl
@[simp] theorem settle_latchO : (s.settle).latchO = s.latchO := rfl
@[simp] theorem settle_clkO : (s.settle).clkO = s.clkO := rfl
@[simp] theorem settle_inhO : (s.settle).inhO = s.inhO := rfl
@[simp] theorem settle_fault : (s.settle).fault = s.fault := rfl
@[simp] theorem settle_hist : (s.settle).hist = s.hist ++ [.settle] := rfl
@[simp] theorem settle_params : (s.settle).params = s.params := rfl
@[simp] theorem settle_mstep : (s.settle).mstep = s.mstep := rfl
@[simp] theorem settle_code : (s.settle).code = s.code := rfl
@[simp] theorem settle_idx : (s.settle).idx = s.idx := rfl
@[simp] theorem settle_reason : (s.settle).reason = s.reason := rfl
@[simp] theorem settle_responses : (s.settle).responses = s.responses := rfl
@[simp] theorem settle_host : (s.settle).host = s.host := rfl
@[simp] theorem settle_serial : (s.settle).serial = s.serial := rfl
@[simp] theorem settle_alloc : (s.settle).alloc = s.alloc := rfl
@[simp] theorem settle_draws : (s.settle).draws = s.draws := rfl

/-! ### sampled -/

@[simp] theorem sampled_phase : (s.sampled).phase = s.phase := rfl
@[simp] theorem sampled_count : (s.sampled).count = s.count := rfl
@[simp] theorem sampled_type : (s.sampled).type = s.type := rfl
@[simp] theorem sampled_hasInh : (s.sampled).hasInh = s.hasInh := rfl
@[simp] theorem sampled_cur : (s.sampled).cur = s.cur := rfl
@[simp] theorem sampled_prev : (s.sampled).prev = s.prev := rfl
@[simp] theorem sampled_raw : (s.sampled).raw = s.raw := rfl
@[simp] theorem sampled_acc : (s.sampled).acc = s.acc := rfl
@[simp] theorem sampled_chg : (s.sampled).chg = s.chg := rfl
@[simp] theorem sampled_k : (s.sampled).k = s.k := rfl
@[simp] theorem sampled_j : (s.sampled).j = s.j := rfl
@[simp] theorem sampled_i : (s.sampled).i = s.i := rfl
@[simp] theorem sampled_latchO : (s.sampled).latchO = s.latchO := rfl
@[simp] theorem sampled_clkO : (s.sampled).clkO = s.clkO := rfl
@[simp] theorem sampled_inhO : (s.sampled).inhO = s.inhO := rfl
@[simp] theorem sampled_fault : (s.sampled).fault = s.fault := rfl
@[simp] theorem sampled_hist : (s.sampled).hist = s.hist ++ [.sample s.serialDraw] := rfl
@[simp] theorem sampled_params : (s.sampled).params = s.params := rfl
@[simp] theorem sampled_mstep : (s.sampled).mstep = s.mstep := rfl
@[simp] theorem sampled_code : (s.sampled).code = s.code := rfl
@[simp] theorem sampled_idx : (s.sampled).idx = s.idx := rfl
@[simp] theorem sampled_reason : (s.sampled).reason = s.reason := rfl
@[simp] theorem sampled_responses : (s.sampled).responses = s.responses := rfl
@[simp] theorem sampled_host : (s.sampled).host = s.host := rfl
@[simp] theorem sampled_serial : (s.sampled).serial = s.serial.tail := rfl
@[simp] theorem sampled_alloc : (s.sampled).alloc = s.alloc := rfl
@[simp] theorem sampled_draws : (s.sampled).draws = s.draws + 1 := rfl

/-! ### allocDrawn -/

@[simp] theorem allocDrawn_phase : (s.allocDrawn).phase = s.phase := rfl
@[simp] theorem allocDrawn_count : (s.allocDrawn).count = s.count := rfl
@[simp] theorem allocDrawn_type : (s.allocDrawn).type = s.type := rfl
@[simp] theorem allocDrawn_hasInh : (s.allocDrawn).hasInh = s.hasInh := rfl
@[simp] theorem allocDrawn_cur : (s.allocDrawn).cur = s.cur := rfl
@[simp] theorem allocDrawn_prev : (s.allocDrawn).prev = s.prev := rfl
@[simp] theorem allocDrawn_raw : (s.allocDrawn).raw = s.raw := rfl
@[simp] theorem allocDrawn_acc : (s.allocDrawn).acc = s.acc := rfl
@[simp] theorem allocDrawn_chg : (s.allocDrawn).chg = s.chg := rfl
@[simp] theorem allocDrawn_k : (s.allocDrawn).k = s.k := rfl
@[simp] theorem allocDrawn_j : (s.allocDrawn).j = s.j := rfl
@[simp] theorem allocDrawn_i : (s.allocDrawn).i = s.i := rfl
@[simp] theorem allocDrawn_latchO : (s.allocDrawn).latchO = s.latchO := rfl
@[simp] theorem allocDrawn_clkO : (s.allocDrawn).clkO = s.clkO := rfl
@[simp] theorem allocDrawn_inhO : (s.allocDrawn).inhO = s.inhO := rfl
@[simp] theorem allocDrawn_fault : (s.allocDrawn).fault = s.fault := rfl
@[simp] theorem allocDrawn_hist : (s.allocDrawn).hist = s.hist := rfl
@[simp] theorem allocDrawn_params : (s.allocDrawn).params = s.params := rfl
@[simp] theorem allocDrawn_mstep : (s.allocDrawn).mstep = s.mstep := rfl
@[simp] theorem allocDrawn_code : (s.allocDrawn).code = s.code := rfl
@[simp] theorem allocDrawn_idx : (s.allocDrawn).idx = s.idx := rfl
@[simp] theorem allocDrawn_reason : (s.allocDrawn).reason = s.reason := rfl
@[simp] theorem allocDrawn_responses : (s.allocDrawn).responses = s.responses := rfl
@[simp] theorem allocDrawn_host : (s.allocDrawn).host = s.host := rfl
@[simp] theorem allocDrawn_serial : (s.allocDrawn).serial = s.serial := rfl
@[simp] theorem allocDrawn_alloc : (s.allocDrawn).alloc = s.alloc.tail := rfl
@[simp] theorem allocDrawn_draws : (s.allocDrawn).draws = s.draws + 1 := rfl

/-! ### respond -/

@[simp] theorem respond_phase (v : Response) : (s.respond v).phase = s.phase := rfl
@[simp] theorem respond_count (v : Response) : (s.respond v).count = s.count := rfl
@[simp] theorem respond_type (v : Response) : (s.respond v).type = s.type := rfl
@[simp] theorem respond_hasInh (v : Response) : (s.respond v).hasInh = s.hasInh := rfl
@[simp] theorem respond_cur (v : Response) : (s.respond v).cur = s.cur := rfl
@[simp] theorem respond_prev (v : Response) : (s.respond v).prev = s.prev := rfl
@[simp] theorem respond_raw (v : Response) : (s.respond v).raw = s.raw := rfl
@[simp] theorem respond_acc (v : Response) : (s.respond v).acc = s.acc := rfl
@[simp] theorem respond_chg (v : Response) : (s.respond v).chg = s.chg := rfl
@[simp] theorem respond_k (v : Response) : (s.respond v).k = s.k := rfl
@[simp] theorem respond_j (v : Response) : (s.respond v).j = s.j := rfl
@[simp] theorem respond_i (v : Response) : (s.respond v).i = s.i := rfl
@[simp] theorem respond_latchO (v : Response) : (s.respond v).latchO = s.latchO := rfl
@[simp] theorem respond_clkO (v : Response) : (s.respond v).clkO = s.clkO := rfl
@[simp] theorem respond_inhO (v : Response) : (s.respond v).inhO = s.inhO := rfl
@[simp] theorem respond_fault (v : Response) : (s.respond v).fault = s.fault := rfl
@[simp] theorem respond_hist (v : Response) : (s.respond v).hist = s.hist := rfl
@[simp] theorem respond_params (v : Response) : (s.respond v).params = s.params := rfl
@[simp] theorem respond_mstep (v : Response) : (s.respond v).mstep = s.mstep := rfl
@[simp] theorem respond_code (v : Response) : (s.respond v).code = s.code := rfl
@[simp] theorem respond_idx (v : Response) : (s.respond v).idx = s.idx := rfl
@[simp] theorem respond_reason (v : Response) : (s.respond v).reason = s.reason := rfl
@[simp] theorem respond_responses (v : Response) : (s.respond v).responses = s.responses ++ [v] := rfl
@[simp] theorem respond_host (v : Response) : (s.respond v).host = s.host := rfl
@[simp] theorem respond_serial (v : Response) : (s.respond v).serial = s.serial := rfl
@[simp] theorem respond_alloc (v : Response) : (s.respond v).alloc = s.alloc := rfl
@[simp] theorem respond_draws (v : Response) : (s.respond v).draws = s.draws := rfl

/-! ### raiseFault -/

@[simp] theorem raiseFault_phase (f : FaultKind) (c : CmdWord) : (s.raiseFault f c).phase = s.phase := rfl
@[simp] theorem raiseFault_count (f : FaultKind) (c : CmdWord) : (s.raiseFault f c).count = s.count := rfl
@[simp] theorem raiseFault_type (f : FaultKind) (c : CmdWord) : (s.raiseFault f c).type = s.type := rfl
@[simp] theorem raiseFault_hasInh (f : FaultKind) (c : CmdWord) : (s.raiseFault f c).hasInh = s.hasInh := rfl
@[simp] theorem raiseFault_cur (f : FaultKind) (c : CmdWord) : (s.raiseFault f c).cur = s.cur := rfl
@[simp] theorem raiseFault_prev (f : FaultKind) (c : CmdWord) : (s.raiseFault f c).prev = s.prev := rfl
@[simp] theorem raiseFault_raw (f : FaultKind) (c : CmdWord) : (s.raiseFault f c).raw = s.raw := rfl
@[simp] theorem raiseFault_acc (f : FaultKind) (c : CmdWord) : (s.raiseFault f c).acc = s.acc := rfl
@[simp] theorem raiseFault_chg (f : FaultKind) (c : CmdWord) : (s.raiseFault f c).chg = s.chg := rfl
@[simp] theorem raiseFault_k (f : FaultKind) (c : CmdWord) : (s.raiseFault f c).k = s.k := rfl
@[simp] theorem raiseFault_j (f : FaultKind) (c : CmdWord) : (s.raiseFault f c).j = s.j := rfl
@[simp] theorem raiseFault_i (f : FaultKind) (c : CmdWord) : (s.raiseFault f c).i = s.i := rfl
@[simp] theorem raiseFault_latchO (f : FaultKind) (c : CmdWord) : (s.raiseFault f c).latchO = s.latchO := rfl
@[simp] theorem raiseFault_clkO (f : FaultKind) (c : CmdWord) : (s.raiseFault f c).clkO = s.clkO := rfl
@[simp] theorem raiseFault_inhO (f : FaultKind) (c : CmdWord) : (s.raiseFault f c).inhO = s.inhO := rfl
@[simp] theorem raiseFault_fault (f : FaultKind) (c : CmdWord) : (s.raiseFault f c).fault = some ⟨f, c⟩ := rfl
@[simp] theorem raiseFault_hist (f : FaultKind) (c : CmdWord) : (s.raiseFault f c).hist = s.hist := rfl
@[simp] theorem raiseFault_params (f : FaultKind) (c : CmdWord) : (s.raiseFault f c).params = s.params := rfl
@[simp] theorem raiseFault_mstep (f : FaultKind) (c : CmdWord) : (s.raiseFault f c).mstep = s.mstep := rfl
@[simp] theorem raiseFault_code (f : FaultKind) (c : CmdWord) : (s.raiseFault f c).code = s.code := rfl
@[simp] theorem raiseFault_idx (f : FaultKind) (c : CmdWord) : (s.raiseFault f c).idx = s.idx := rfl
@[simp] theorem raiseFault_reason (f : FaultKind) (c : CmdWord) : (s.raiseFault f c).reason = s.reason := rfl
@[simp] theorem raiseFault_responses (f : FaultKind) (c : CmdWord) : (s.raiseFault f c).responses = s.responses := rfl
@[simp] theorem raiseFault_host (f : FaultKind) (c : CmdWord) : (s.raiseFault f c).host = s.host := rfl
@[simp] theorem raiseFault_serial (f : FaultKind) (c : CmdWord) : (s.raiseFault f c).serial = s.serial := rfl
@[simp] theorem raiseFault_alloc (f : FaultKind) (c : CmdWord) : (s.raiseFault f c).alloc = s.alloc := rfl
@[simp] theorem raiseFault_draws (f : FaultKind) (c : CmdWord) : (s.raiseFault f c).draws = s.draws := rfl

/-! ### goto -/

@[simp] theorem goto_phase (m : Nibble) : (s.goto m).phase = s.phase := rfl
@[simp] theorem goto_count (m : Nibble) : (s.goto m).count = s.count := rfl
@[simp] theorem goto_type (m : Nibble) : (s.goto m).type = s.type := rfl
@[simp] theorem goto_hasInh (m : Nibble) : (s.goto m).hasInh = s.hasInh := rfl
@[simp] theorem goto_cur (m : Nibble) : (s.goto m).cur = s.cur := rfl
@[simp] theorem goto_prev (m : Nibble) : (s.goto m).prev = s.prev := rfl
@[simp] theorem goto_raw (m : Nibble) : (s.goto m).raw = s.raw := rfl
@[simp] theorem goto_acc (m : Nibble) : (s.goto m).acc = s.acc := rfl
@[simp] theorem goto_chg (m : Nibble) : (s.goto m).chg = s.chg := rfl
@[simp] theorem goto_k (m : Nibble) : (s.goto m).k = s.k := rfl
@[simp] theorem goto_j (m : Nibble) : (s.goto m).j = s.j := rfl
@[simp] theorem goto_i (m : Nibble) : (s.goto m).i = s.i := rfl
@[simp] theorem goto_latchO (m : Nibble) : (s.goto m).latchO = s.latchO := rfl
@[simp] theorem goto_clkO (m : Nibble) : (s.goto m).clkO = s.clkO := rfl
@[simp] theorem goto_inhO (m : Nibble) : (s.goto m).inhO = s.inhO := rfl
@[simp] theorem goto_fault (m : Nibble) : (s.goto m).fault = s.fault := rfl
@[simp] theorem goto_hist (m : Nibble) : (s.goto m).hist = s.hist := rfl
@[simp] theorem goto_params (m : Nibble) : (s.goto m).params = s.params := rfl
@[simp] theorem goto_mstep (m : Nibble) : (s.goto m).mstep = m := rfl
@[simp] theorem goto_code (m : Nibble) : (s.goto m).code = s.code := rfl
@[simp] theorem goto_idx (m : Nibble) : (s.goto m).idx = s.idx := rfl
@[simp] theorem goto_reason (m : Nibble) : (s.goto m).reason = s.reason := rfl
@[simp] theorem goto_responses (m : Nibble) : (s.goto m).responses = s.responses := rfl
@[simp] theorem goto_host (m : Nibble) : (s.goto m).host = s.host := rfl
@[simp] theorem goto_serial (m : Nibble) : (s.goto m).serial = s.serial := rfl
@[simp] theorem goto_alloc (m : Nibble) : (s.goto m).alloc = s.alloc := rfl
@[simp] theorem goto_draws (m : Nibble) : (s.goto m).draws = s.draws := rfl

/-! ### drive -/

@[simp] theorem drive_phase (l : Line) (b : Bit) : (s.drive l b).phase = s.phase := by cases l <;> rfl
@[simp] theorem drive_count (l : Line) (b : Bit) : (s.drive l b).count = s.count := by cases l <;> rfl
@[simp] theorem drive_type (l : Line) (b : Bit) : (s.drive l b).type = s.type := by cases l <;> rfl
@[simp] theorem drive_hasInh (l : Line) (b : Bit) : (s.drive l b).hasInh = s.hasInh := by cases l <;> rfl
@[simp] theorem drive_cur (l : Line) (b : Bit) : (s.drive l b).cur = s.cur := by cases l <;> rfl
@[simp] theorem drive_prev (l : Line) (b : Bit) : (s.drive l b).prev = s.prev := by cases l <;> rfl
@[simp] theorem drive_raw (l : Line) (b : Bit) : (s.drive l b).raw = s.raw := by cases l <;> rfl
@[simp] theorem drive_acc (l : Line) (b : Bit) : (s.drive l b).acc = s.acc := by cases l <;> rfl
@[simp] theorem drive_chg (l : Line) (b : Bit) : (s.drive l b).chg = s.chg := by cases l <;> rfl
@[simp] theorem drive_k (l : Line) (b : Bit) : (s.drive l b).k = s.k := by cases l <;> rfl
@[simp] theorem drive_j (l : Line) (b : Bit) : (s.drive l b).j = s.j := by cases l <;> rfl
@[simp] theorem drive_i (l : Line) (b : Bit) : (s.drive l b).i = s.i := by cases l <;> rfl
@[simp] theorem drive_latchO_latchO (b : Bit) : (s.drive .latchO b).latchO = .driven b := rfl
@[simp] theorem drive_clkO_latchO (b : Bit) : (s.drive .clkO b).latchO = s.latchO := rfl
@[simp] theorem drive_inhO_latchO (b : Bit) : (s.drive .inhO b).latchO = s.latchO := rfl
@[simp] theorem drive_latchO_clkO (b : Bit) : (s.drive .latchO b).clkO = s.clkO := rfl
@[simp] theorem drive_clkO_clkO (b : Bit) : (s.drive .clkO b).clkO = .driven b := rfl
@[simp] theorem drive_inhO_clkO (b : Bit) : (s.drive .inhO b).clkO = s.clkO := rfl
@[simp] theorem drive_latchO_inhO (b : Bit) : (s.drive .latchO b).inhO = s.inhO := rfl
@[simp] theorem drive_clkO_inhO (b : Bit) : (s.drive .clkO b).inhO = s.inhO := rfl
@[simp] theorem drive_inhO_inhO (b : Bit) : (s.drive .inhO b).inhO = .driven b := rfl
@[simp] theorem drive_fault (l : Line) (b : Bit) : (s.drive l b).fault = s.fault := by cases l <;> rfl
@[simp] theorem drive_hist (l : Line) (b : Bit) : (s.drive l b).hist = s.hist ++ [.drive l b] := by cases l <;> rfl
@[simp] theorem drive_params (l : Line) (b : Bit) : (s.drive l b).params = s.params := by cases l <;> rfl
@[simp] theorem drive_mstep (l : Line) (b : Bit) : (s.drive l b).mstep = s.mstep := by cases l <;> rfl
@[simp] theorem drive_code (l : Line) (b : Bit) : (s.drive l b).code = s.code := by cases l <;> rfl
@[simp] theorem drive_idx (l : Line) (b : Bit) : (s.drive l b).idx = s.idx := by cases l <;> rfl
@[simp] theorem drive_reason (l : Line) (b : Bit) : (s.drive l b).reason = s.reason := by cases l <;> rfl
@[simp] theorem drive_responses (l : Line) (b : Bit) : (s.drive l b).responses = s.responses := by cases l <;> rfl
@[simp] theorem drive_host (l : Line) (b : Bit) : (s.drive l b).host = s.host := by cases l <;> rfl
@[simp] theorem drive_serial (l : Line) (b : Bit) : (s.drive l b).serial = s.serial := by cases l <;> rfl
@[simp] theorem drive_alloc (l : Line) (b : Bit) : (s.drive l b).alloc = s.alloc := by cases l <;> rfl
@[simp] theorem drive_draws (l : Line) (b : Bit) : (s.drive l b).draws = s.draws := by cases l <;> rfl

end Sys2Proof.Machine
end

