-- ==== Sys2Proof/Laws/Ops.lean ====
section
/-!
SUPPORT. What each shared operation can do, said once: reading an element, the acceptance checks, the choice of the decoder, the
lines, and one step.
-/

namespace Sys2Proof.Machine

@[simp] theorem need_some {α : Type} (a : α) (e : Element) (go : α → Result) : need (some a) e go = go a := rfl

/-- Reading an element answers a next state only when the element holds a value. -/
theorem need_next {α : Type} {v : Option α} {e : Element} {go : α → Result} {t : State}
    (h : need v e go = .next t) : ∃ a, v = some a ∧ go a = .next t := by
  cases v with
  | none => cases h
  | some a => exact ⟨a, rfl, h⟩

/-- Acceptance in a free block is the command itself; in a busy one it is F_BUSY. -/
theorem whenFree_next {s t : State} {c : CmdWord} {go : Result} (h : whenFree s c go = .next t) :
    (s.phase.busy = true ∧ t = s.raiseFault .busy c) ∨ (s.phase.busy = false ∧ go = .next t) := by
  unfold whenFree at h
  split at h
  · rename_i hb; cases h; exact .inl ⟨hb, rfl⟩
  · rename_i hb; exact .inr ⟨by simpa using hb, h⟩

theorem whenFree_of_free {s : State} {c : CmdWord} {go : Result} (h : s.phase.busy = false) : whenFree s c go = go := by
  simp [whenFree, h]

/-- Acceptance of POLL, RDCUR and RDCNT: F_BUSY, F_NOT_CONFIGURED, or, in Idle, the command itself. -/
theorem whenConfigured_next {s t : State} {c : CmdWord} {go : Result} (h : whenConfigured s c go = .next t) :
    (s.phase.busy = true ∧ t = s.raiseFault .busy c) ∨
      (s.phase = .unconfigured ∧ t = s.raiseFault .notConfigured c) ∨ (s.phase = .idle ∧ go = .next t) := by
  rcases whenFree_next h with hb | ⟨hf, h⟩
  · exact .inl hb
  · split at h
    · rename_i hu; cases h; exact .inr (.inl ⟨hu, rfl⟩)
    · rename_i hu
      refine .inr (.inr ⟨?_, h⟩)
      revert hf hu; cases s.phase <;> simp [Phase.busy]

theorem whenConfigured_idle {s : State} {c : CmdWord} {go : Result} (h : s.phase = .idle) :
    whenConfigured s c go = go := by
  simp [whenConfigured, whenFree, Phase.busy, h]

/-- The decoder's choice answers a next state only for a type that has a decoder. -/
theorem gotoDecoder_next {s t : State} {ty : Nat} (h : s.gotoDecoder ty = .next t) :
    ∃ id, decoderFor ty = some id ∧ t = s.goto id := by
  unfold State.gotoDecoder at h
  split at h
  · rename_i id hid; cases h; exact ⟨id, hid, rfl⟩
  · cases h

/-- The inhibit line: driven when there is one, else nothing happens. -/
theorem driveInhibit_eq (s : State) (h lvl : Bit) :
    s.driveInhibit h lvl = { s with
      inhO := if h then .driven lvl else s.inhO
      hist := s.hist ++ (if h then [.drive .inhO lvl] else []) } := by
  cases h <;> simp [State.driveInhibit, State.drive, State.setLine, State.emit]

/-- The latch pulse: LATCH_O ends at 1 and four events are appended (R101). -/
theorem pulseLatch_eq (s : State) :
    s.pulseLatch = { s with
      latchO := .driven true
      hist := s.hist ++ [.drive .latchO false, .settle, .drive .latchO true, .settle] } := by
  simp [State.pulseLatch, State.drive, State.setLine, State.settle, State.emit]

/-- The clock pulse: CLK_O ends at 0 and four events are appended (R103). -/
theorem pulseClock_eq (s : State) :
    s.pulseClock = { s with
      clkO := .driven false
      hist := s.hist ++ [.drive .clkO true, .settle, .drive .clkO false, .settle] } := by
  simp [State.pulseClock, State.drive, State.setLine, State.settle, State.emit]

/-- One bit shifted in: ACC, the clock line, HIST and the environment's side, and nothing else (R103). -/
theorem shiftIn_eq (s : State) (j : Fin 8) :
    s.shiftIn j = { s with
      acc := s.acc.set (accPlace j).val (some s.serialDraw) (accPlace j).isLt
      clkO := .driven false
      hist := s.hist ++ [.sample s.serialDraw, .drive .clkO true, .settle, .drive .clkO false, .settle]
      serial := s.serial.tail
      draws := s.draws + 1 } := by
  simp [State.shiftIn, pulseClock_eq, State.sampled]

/-- The events a successful INIT appends (R190). -/
def initEvents (hasInh inhActive : Bit) : List Event :=
  if hasInh then
    [.configOut .latchO, .configOut .clkO, .configOut .inhO, .configIn, .drive .latchO true, .drive .clkO false,
      .drive .inhO (!inhActive)]
  else [.configOut .latchO, .configOut .clkO, .configIn, .drive .latchO true, .drive .clkO false]

/-- The lines after a successful INIT, and the events it appends (R190). -/
theorem configureLines_eq (s : State) (h : Bit) :
    s.configureLines h = { s with
      latchO := .driven true
      clkO := .driven false
      inhO := if h then .driven (!s.params.inhActive) else s.inhO
      hist := s.hist ++ initEvents h s.params.inhActive } := by
  cases h <;> simp [State.configureLines, initEvents, State.drive, State.setLine, State.emit]

/-- Everything a successful INIT writes (R185, R190). -/
theorem initSucceed_eq (s : State) (n : Nat) (r : InitRecord) :
    s.initSucceed n r = { s with
      phase := .idle, count := some (BitVec.ofNat 8 n), hasInh := some r.hasInhIn
      type := filledBelow s.params.maxCount n (typeInAt r)
      prev := filledBelow s.params.maxCount n fun _ => s.params.sentinel
      cur := undefinedArray s.params.maxCount, raw := undefinedArray s.params.maxBytes
      acc := accUndefined, chg := none, k := none, j := none, i := none
      latchO := .driven true, clkO := .driven false
      inhO := if r.hasInhIn then .driven (!s.params.inhActive) else s.inhO
      hist := s.hist ++ initEvents r.hasInhIn s.params.inhActive
      mstep := 0x0, code := none, idx := none, reason := none
      responses := s.responses ++ [.ok true] } := by
  simp only [State.initSucceed, configureLines_eq]
  rfl

/-- Everything a failed INIT writes (R186). -/
theorem initFail_eq (s : State) (q : InitFailure) :
    s.initFail q = { s with
      phase := .unconfigured, count := none, hasInh := none
      type := undefinedArray s.params.maxCount, prev := undefinedArray s.params.maxCount
      cur := undefinedArray s.params.maxCount, raw := undefinedArray s.params.maxBytes
      acc := accUndefined, chg := none, k := none, j := none, i := none
      mstep := 0x0, code := none, idx := none, reason := some q
      responses := s.responses ++ [.ok false] } := rfl

/-- An accepted INIT fails for one reason or succeeds, on the state after its draw (R181). -/
theorem runInit_cases (s : State) (r : InitRecord) :
    (∃ reason, s.runInit r = s.allocDrawn.initFail reason) ∨
      (0 < normalise s.params r.countIn ∧ typesLegal s.params r (normalise s.params r.countIn) = true ∧
        s.runInit r = s.allocDrawn.initSucceed (normalise s.params r.countIn) r) := by
  unfold State.runInit
  simp only
  split
  · exact .inl ⟨_, rfl⟩
  · rename_i h
    unfold initOutcome at h
    split at h
    · cases h
    · split at h
      · cases h
      · rename_i h0 h1; exact .inr ⟨by omega, by simpa using h1, rfl⟩

/-- In a state without a recorded fault the turn is the block's own. -/
theorem unlessFaulted_none {s : State} {t : Turn} (h : s.fault = none) : s.unlessFaulted t = t := by
  simp [State.unlessFaulted, h]

/-- A turn that runs a code: no fault is recorded, and the code is a command the host presents (now, or issues to a free
block) or the sequencer's micro-step in a busy phase. -/
theorem fetch_run {s t : State} {e : Encoded} (h : fetch s = .run e t) :
    s.fault = none ∧
      ((∃ p rest, e = .command p ∧ t = { s with host := rest } ∧
          (s.host = .present p :: rest ∨ (s.host = .issue p :: rest ∧ s.phase.busy = false))) ∨
        (s.phase.busy = true ∧ e = .micro s.mstep ∧ ∃ rest, t = { s with host := rest })) := by
  unfold fetch at h
  split at h
  · cases h
  · rename_i p rest hh
    unfold State.unlessFaulted at h; split at h
    · cases h
    · rename_i hf; cases h; exact ⟨hf, .inl ⟨p, rest, rfl, rfl, .inl hh⟩⟩
  · rename_i p rest hh
    unfold State.unlessFaulted at h; split at h
    · cases h
    · rename_i hf
      split at h
      · rename_i hb; simp [State.ownTurn, hb] at h; obtain ⟨rfl, rfl⟩ := h
        exact ⟨hf, .inr ⟨hb, rfl, s.host, rfl⟩⟩
      · rename_i hb; cases h; exact ⟨hf, .inl ⟨p, rest, rfl, rfl, .inr ⟨hh, by simpa using hb⟩⟩⟩
  · rename_i rest hh
    unfold State.unlessFaulted at h; split at h
    · cases h
    · rename_i hf; unfold State.ownTurn at h; split at h
      · rename_i hb; cases h; exact ⟨hf, .inr ⟨hb, rfl, rest, rfl⟩⟩
      · cases h
  · unfold State.unlessFaulted at h; split at h
    · cases h
    · rename_i hf; unfold State.ownTurn at h; split at h
      · rename_i hb; cases h; exact ⟨hf, .inr ⟨hb, rfl, s.host, rfl⟩⟩
      · cases h

/-- Running the code of an instruction is executing it. -/
theorem runCode_ok {e : Encoded} {i : Instr} (s : State) (h : decode s.params e = .ok i) : runCode e s = exec i s := by
  simp [runCode, h]

/-- Running a code answers a next state only by its instruction or as a reserved command word's fault. -/
theorem runCode_next {e : Encoded} {s t : State} (h : runCode e s = .next t) :
    (∃ i, decode s.params e = .ok i ∧ exec i s = .next t) ∨
      (∃ w, (decode s.params e = .error (.reservedOp w) ∨ decode s.params e = .error (.nonzeroArg w)) ∧ t = s.raiseFault .reservedOp w) := by
  unfold runCode at h
  split at h
  · rename_i i hd; exact .inl ⟨i, hd, h⟩
  · rename_i err hd
    cases err with
    | reservedOp w => cases h; exact .inr ⟨w, .inl hd, rfl⟩
    | nonzeroArg w => cases h; exact .inr ⟨w, .inr hd, rfl⟩
    | malformedRecord => cases h
    | unnamedMStep id => cases h

/-- Everything one step can do when it answers a next state: a power-on reset, a wait, or running a code. -/
theorem step_cases {s t : State} (h : step s = .next t) :
    fetch s = .reset t ∨ fetch s = .wait t ∨ ∃ e u, fetch s = .run e u ∧ runCode e u = .next t := by
  unfold step at h
  split at h
  · rename_i hf; cases h; exact .inl hf
  · cases h
  · rename_i hf; cases h; exact .inr (.inl hf)
  · rename_i e u hf; exact .inr (.inr ⟨e, u, hf, h⟩)

end Sys2Proof.Machine
end

