-- ==== Sys2Proof/Laws/PerInstr.lean ====
section
/-!
SUPPORT. One law per instruction about its code: a command is issued by the host, a micro-step has a non-zero id of its own (R85).
-/

namespace Sys2Proof.Laws.Issuer

open Sys2Proof

/-- Who gives the instruction to the block: the host by a command word, or the sequencer by a micro-step id. -/
def Statement (i : Instr) : Prop :=
  (i.hostIssuable = true ∧ ∃ p, encode i = .command p) ∨
  (i.hostIssuable = false ∧ ∃ id : Nibble, encode i = .micro id ∧ id ≠ 0x0 ∧ id.toNat ≤ 0xC)

theorem init (r : InitRecord) : Statement (.init r) := .inl ⟨rfl, _, rfl⟩
theorem poll : Statement .poll := .inl ⟨rfl, _, rfl⟩
theorem rdcur (i : Byte) : Statement (.rdcur i) := .inl ⟨rfl, _, rfl⟩
theorem rdcnt : Statement .rdcnt := .inl ⟨rfl, _, rfl⟩
theorem inhAssert : Statement .inhAssert := .inr ⟨rfl, _, rfl, by decide, by decide⟩
theorem latchPulse : Statement .latchPulse := .inr ⟨rfl, _, rfl, by decide, by decide⟩
theorem inhRelease : Statement .inhRelease := .inr ⟨rfl, _, rfl, by decide, by decide⟩
theorem shiftBit : Statement .shiftBit := .inr ⟨rfl, _, rfl, by decide, by decide⟩
theorem storeByte : Statement .storeByte := .inr ⟨rfl, _, rfl, by decide, by decide⟩
theorem clearChg : Statement .clearChg := .inr ⟨rfl, _, rfl, by decide, by decide⟩
theorem split : Statement .split := .inr ⟨rfl, _, rfl, by decide, by decide⟩
theorem decodeGray : Statement .decodeGray := .inr ⟨rfl, _, rfl, by decide, by decide⟩
theorem decodeLut8 : Statement .decodeLut8 := .inr ⟨rfl, _, rfl, by decide, by decide⟩
theorem decodeLut12 : Statement .decodeLut12 := .inr ⟨rfl, _, rfl, by decide, by decide⟩
theorem compareCommit : Statement .compareCommit := .inr ⟨rfl, _, rfl, by decide, by decide⟩
theorem pollDone : Statement .pollDone := .inr ⟨rfl, _, rfl, by decide, by decide⟩

end Sys2Proof.Laws.Issuer
end

