-- ==== Sys2Proof/Tests/Slice0.lean ====
section
/-!
SUPPORT. Small tests: words written out from 30_encoding.md, the vectors of 95_test_vectors.md, and a witness for the hypotheses of
each statement.
-/

namespace Sys2Proof.Tests

open Sys2Proof Sys2Proof.Machine

/-! ## Small states -/

/-- A record with the given count and first types, the rest 0x00 (R84). -/
def recordOf (count : Nat) (inh : Bit) (types : List Nat) : InitRecord :=
  ⟨count, inh, types ++ List.replicate (100 - types.length) 0x00⟩

/-- Two switches of types 16 and 8 with an inhibit line, in Idle or at the start of a poll, after INIT or after the first poll of
program P1 (95_test_vectors.md). -/
def small (polled running : Bool) : State :=
  { State.reset with
    phase := if running then .latching else .idle
    mstep := if running then 0x1 else 0x0
    count := some 2, hasInh := some true
    type := filledBelow 100 2 fun i => if i = 0 then 0x10 else 0x08
    cur := if polled then filledBelow 100 2 fun i => if i = 0 then 0x08 else 0x05 else undefinedArray 100
    prev := filledBelow 100 2 fun i => if polled then (if i = 0 then 0x08 else 0x05) else 0xFF
    chg := if polled then some true else none
    latchO := .driven true, clkO := .driven false, inhO := .driven false
    serial := [true, true, false, false, false, true, true, true], alloc := [true] }

/-- The small block in the Decoding phase of P1's poll, at switch `i`. -/
def decodingAt (i : Nat) (id : Nibble) : State :=
  { small false true with
    phase := .decoding, mstep := id, i := some i, chg := some false
    raw := setEntry (undefinedArray 50) 0 0xC7, code := some 0xC, idx := some 0x8 }

/-- The small block in the Shifting phase with the given accumulator and bit index. -/
def shiftingAt (j : Fin 8) (acc : Vector (Option Bit) 8) : State :=
  { small false true with phase := .shifting, mstep := 0x4, k := some 0, j := some j, acc := acc }

/-- The bits of 0xC7, bit 0 first (V1). -/
def acc0xC7 : Vector (Option Bit) 8 :=
  #v[some true, some true, some true, some false, some false, some false, some true, some true]

/-- What a function of the next state gives. -/
def after {α : Type} (r : Result) (f : State → α) : Option α :=
  match r with
  | .next t => some (f t)
  | .fault _ => none
  | .refused _ => none

theorem after_next {α : Type} (t : State) (f : State → α) : after (.next t) f = some (f t) := rfl

theorem small_type (p r : Bool) : (small p r).type = filledBelow 100 2 fun i => if i = 0 then 0x10 else 0x08 := rfl
theorem small_prev (p r : Bool) :
    (small p r).prev = filledBelow 100 2 fun i => if p then (if i = 0 then 0x08 else 0x05) else 0xFF := rfl
theorem small_cur (p r : Bool) :
    (small p r).cur = if p then filledBelow 100 2 fun i => if i = 0 then 0x08 else 0x05 else undefinedArray 100 := rfl
theorem small_switches (p r : Bool) : (small p r).switches = 2 := rfl
theorem small_params (p r : Bool) : (small p r).params = {} := rfl
theorem small_raw (p r : Bool) : (small p r).raw = undefinedArray 50 := rfl
theorem small_committed (p r : Bool) : (small p r).committed = 0 := by cases r <;> rfl

theorem test_small_shape (p r : Bool) : (small p r).ShapeInv := by
  refine ⟨default_legal, ?_, ?_, ?_, ?_⟩ <;> cases p <;> rfl

theorem test_small_config (p r : Bool) : (small p r).ConfigInv := by
  refine ⟨?_, ?_, ?_, ?_, ?_, ?_, ?_⟩
  · intro c hc; cases hc; refine ⟨by decide, ?_, by decide⟩; show 2 ≤ 100; decide
  · cases r <;> simp [small]
  · simp [small]
  · intro i hi; rw [small_switches] at hi; rw [small_type, filledBelow_below _ hi (by omega)]; exact ⟨_, rfl, by rw [small_params]; split <;> decide⟩
  · intro i hi; rw [small_type]; exact filledBelow_above _ hi
  · intro i hi; rw [small_switches] at hi; rw [small_prev, filledBelow_below _ hi (by omega)]; exact ⟨_, rfl⟩
  · intro i hi; rw [small_prev]; exact filledBelow_above _ hi

theorem test_small_buffer (p r : Bool) : (small p r).BufferInv := by
  refine ⟨?_, ?_, ?_, ?_⟩
  · intro i
    rw [small_cur, small_prev]
    cases p with
    | true => exact .inl rfl
    | false =>
      by_cases h : i < 2
      · exact .inr ⟨by simp, filledBelow_below _ h (by omega)⟩
      · exact .inl (by rw [filledBelow_above _ (by omega)]; simp)
  · intro i v t hv ht
    rw [small_cur] at hv
    rw [small_type] at ht
    cases p with
    | false => simp at hv
    | true =>
      by_cases h : i < 2
      · simp only [if_true] at hv
        rw [filledBelow_below _ h (by omega)] at hv ht
        cases hv; cases ht; by_cases h0 : i = 0 <;> simp [h0]
      · simp only [if_true] at hv
        rw [filledBelow_above _ (by omega)] at hv; cases hv
  · intro i hi; rw [small_committed] at hi; omega
  · rw [small_cur]
    cases p with
    | false => exact .inl fun i _ _ => by simp
    | true =>
      refine .inr fun i _ hi => ?_
      rw [small_switches] at hi; rw [if_pos rfl, filledBelow_below _ hi (by omega)]; simp

theorem test_small_seq (p r : Bool) : (small p r).SeqInv := by
  refine ⟨?_, ?_, ?_, ?_, ?_, ?_, ?_, ?_, ?_, ?_, ?_, ?_⟩
  case refine_3 => intro k; rw [small_raw]; cases r <;> simp [State.rawFilled, small]
  all_goals cases r <;> simp [small, Phase.busy, phaseOfMicro, State.reset, State.resetWith]

theorem test_small_lines (p r : Bool) : (small p r).LineInv := by
  refine ⟨?_, ?_, ?_⟩ <;> cases r <;> simp [small, State.reset, State.resetWith]

/-- The small states satisfy the invariant. -/
theorem test_small_inv (p r : Bool) : (small p r).Inv :=
  ⟨test_small_shape p r, test_small_config p r, test_small_buffer p r, test_small_seq p r, test_small_lines p r⟩

/-! ## Well-formedness: each check refuses an ill-formed term -/

theorem test_wf_short_record : (Instr.init ⟨2, false, [0x08, 0x08]⟩).wellFormed {} = false := by decide

theorem test_wf_wide_count : (Instr.init (recordOf 65536 false [0x08, 0x08])).wellFormed {} = false := by decide

theorem test_wf_wide_type : (Instr.init (recordOf 2 false [0x08, 0x100])).wellFormed {} = false := by decide

theorem test_wf_full_record : (Instr.init (recordOf 2 false [0x08, 0x08])).wellFormed {} = true := by decide

theorem test_decode_short_record :
    decode {} (.command ⟨0x0001, ⟨2, false, [0x08, 0x08]⟩⟩) = .error .malformedRecord := by rfl

/-! ## Decoding: every constructor from its word, written out from R72 and R85 -/

theorem test_decode_init : decode {} (.command ⟨0b0000000000000001#16, .zero {}⟩) = .ok (.init (.zero {})) := by rfl
theorem test_decode_poll : decode {} (.command ⟨0b0000000000000010#16, .zero {}⟩) = .ok .poll := by rfl
theorem test_decode_rdcur_3 : decode {} (.command ⟨0b0000001100000011#16, .zero {}⟩) = .ok (.rdcur 3) := by rfl
theorem test_decode_rdcur_200 : decode {} (.command ⟨0b1100100000000011#16, .zero {}⟩) = .ok (.rdcur 200) := by rfl
theorem test_decode_rdcnt : decode {} (.command ⟨0b0000000000000100#16, .zero {}⟩) = .ok .rdcnt := by rfl
theorem test_decode_inhAssert : decode {} (.micro 0b0001#4) = .ok .inhAssert := by rfl
theorem test_decode_latchPulse : decode {} (.micro 0b0010#4) = .ok .latchPulse := by rfl
theorem test_decode_inhRelease : decode {} (.micro 0b0011#4) = .ok .inhRelease := by rfl
theorem test_decode_shiftBit : decode {} (.micro 0b0100#4) = .ok .shiftBit := by rfl
theorem test_decode_storeByte : decode {} (.micro 0b0101#4) = .ok .storeByte := by rfl
theorem test_decode_clearChg : decode {} (.micro 0b0110#4) = .ok .clearChg := by rfl
theorem test_decode_split : decode {} (.micro 0b0111#4) = .ok .split := by rfl
theorem test_decode_decodeGray : decode {} (.micro 0b1000#4) = .ok .decodeGray := by rfl
theorem test_decode_decodeLut8 : decode {} (.micro 0b1001#4) = .ok .decodeLut8 := by rfl
theorem test_decode_decodeLut12 : decode {} (.micro 0b1010#4) = .ok .decodeLut12 := by rfl
theorem test_decode_compareCommit : decode {} (.micro 0b1011#4) = .ok .compareCommit := by rfl
theorem test_decode_pollDone : decode {} (.micro 0b1100#4) = .ok .pollDone := by rfl
/-- V50, V51, V52 and R85: what names nothing. -/
theorem test_decode_reserved :
    decode {} (.command ⟨0x0000, .zero {}⟩) = .error (.reservedOp 0x0000) ∧
    decode {} (.command ⟨0x0005, .zero {}⟩) = .error (.reservedOp 0x0005) ∧
    decode {} (.command ⟨0x0102, .zero {}⟩) = .error (.nonzeroArg 0x0102) ∧
    decode {} (.micro 0xD) = .error (.unnamedMStep 0xD) := ⟨rfl, rfl, rfl, rfl⟩

theorem test_table_words :
    (decodeTableWord 8 0x8).map Instr.hostIssuable = some false ∧ decodeTableWord 16 0x0303 = some (.rdcur 3) ∧
    decodeTableWord 8 0xD = none := by decide

/-! ## The vectors of 95_test_vectors.md, one step each -/

/-- V2: the first event of a poll with an inhibit line. -/
theorem test_inhAssert_v2 : after (exec .inhAssert (small false true)) (·.hist) = some [.drive .inhO true] := by decide
/-- R100: without an inhibit line nothing happens. -/
theorem test_inhAssert_without :
    after (exec .inhAssert { small false true with hasInh := some false, inhO := .z }) (fun t => (t.hist, t.inhO)) =
      some ([], .z) := by decide
/-- V1: the latch pulse. -/
theorem test_latchPulse_v1 : after (exec .latchPulse (small false true)) (·.hist) =
    some [.drive .latchO false, .settle, .drive .latchO true, .settle] := by decide
/-- V2: the release. -/
theorem test_inhRelease_v2 :
    after (exec .inhRelease (small false true)) (fun t => (t.hist, t.phase, t.k, t.j)) =
      some ([.drive .inhO false], .shifting, some 0, some 0) := by decide
/-- V7: J = 0 writes bit 7. -/
theorem test_shiftBit_v7 :
    after (exec .shiftBit (shiftingAt 0 accUndefined)) (fun t => (t.acc[7], t.acc[0], t.mstep)) =
      some (some true, none, 0x4) := by decide
/-- V8: J = 7 writes bit 0 and the byte is stored next. -/
theorem test_shiftBit_v8 :
    after (exec .shiftBit (shiftingAt 7 accUndefined)) (fun t => (t.acc[0], t.acc[7], t.mstep)) =
      some (some true, none, 0x5) := by decide
/-- V1: RAW[0] = 0xC7, the only byte of two switches. -/
theorem test_storeByte_v1 :
    after (exec .storeByte (shiftingAt 7 acc0xC7)) (fun t => (entryAt t.raw 0, t.phase, t.mstep)) =
      some (some 0xC7, .decoding, 0x6) := by decide
/-- R104: four switches have a second byte. -/
theorem test_storeByte_next :
    after (exec .storeByte { shiftingAt 7 acc0xC7 with count := some 4 }) (fun t => (t.k, t.phase, t.mstep)) =
      some (some 1, .shifting, 0x4) := by decide
/-- R161. -/
theorem test_clearChg :
    after (exec .clearChg (small true true)) (fun t => (t.chg, t.i)) = some (some false, some 0) := by decide
/-- The splitter's vector 0xC7, first switch of the pair. -/
theorem test_split_high :
    after (exec .split (decodingAt 0 0x7)) (fun t => (t.code, t.mstep)) = some (some 0xC, 0x8) := by decide
/-- The splitter's vector 0xC7, second switch of the pair. -/
theorem test_split_low :
    after (exec .split (decodingAt 1 0x7)) (fun t => (t.code, t.mstep)) = some (some 0x7, 0x9) := by decide
/-- S8 as 90_conflicts.md C1 corrects it: 0xF decodes to 10. -/
theorem test_decodeGray_s8 :
    after (exec .decodeGray { decodingAt 0 0x8 with code := some 0xF }) (·.idx) = some (some 10) := by decide
/-- S9: 0x7 decodes to 5. -/
theorem test_decodeLut8_s9 :
    after (exec .decodeLut8 { decodingAt 0 0x9 with code := some 0x7 }) (·.idx) = some (some 5) := by decide
/-- S9: 0x5 is outside the table. -/
theorem test_decodeLut8_fallback :
    after (exec .decodeLut8 { decodingAt 0 0x9 with code := some 0x5 }) (·.idx) = some (some 0) := by decide
/-- S4: 0x1 decodes to 11. -/
theorem test_decodeLut12_s4 :
    after (exec .decodeLut12 { decodingAt 0 0xA with code := some 0x1 }) (·.idx) = some (some 11) := by decide
/-- S4: 0x7 is outside the table. -/
theorem test_decodeLut12_fallback :
    after (exec .decodeLut12 { decodingAt 0 0xA with code := some 0x7 }) (·.idx) = some (some 0) := by decide
/-- V20: the sentinel differs from index 0. -/
theorem test_compareCommit_v20 :
    after (exec .compareCommit { decodingAt 0 0xB with idx := some 0 })
      (fun t => (entryAt t.cur 0, entryAt t.prev 0, t.chg, t.mstep)) = some (some 0x00, some 0x00, some true, 0x7) := by decide
/-- V22: an equal entry leaves CHG; the last switch ends the poll. -/
theorem test_compareCommit_v22 :
    after (exec .compareCommit { small true true with i := some 1, idx := some 5, chg := some false })
      (fun t => (entryAt t.cur 1, entryAt t.prev 1, t.chg, t.mstep)) = some (some 0x05, some 0x05, some false, 0xC) := by decide
/-- R164: the response is the flag. -/
theorem test_pollDone :
    after (exec .pollDone (decodingAt 1 0xC)) (fun t => (t.responses, t.phase, entryAt t.raw 0)) =
      some ([.changed false], .idle, none) := by decide
/-- V31: COUNT_IN = 1 with two types of 8. And a block built with another even ceiling (R7, 90_conflicts.md C3) clamps to it. -/
theorem test_init_v31 :
    after (exec (.init (recordOf 1 false [8, 8])) { State.reset with alloc := [true] })
      (fun t => (t.count, t.phase, t.responses, t.hist)) =
      some (some 2, .idle, [.ok true],
        [.configOut .latchO, .configOut .clkO, .configIn, .drive .latchO true, .drive .clkO false]) ∧
    after (exec (.init ⟨9, false, List.replicate 8 8⟩) { State.resetWith { maxCount := 8 } with alloc := [true] })
      (fun t => (t.count, t.prev.length, t.raw.length)) = some (some 8, 8, 4) := by decide
/-- V32: the padding switch's type is missing. V38 and V39: the draw decides only when ALLOC_MAY_FAIL. -/
theorem test_init_v32_v38_v39 :
    after (exec (.init (recordOf 1 false [8])) { State.reset with alloc := [true] })
      (fun t => (t.count, t.phase, t.responses, t.reason)) =
      some (none, .unconfigured, [.ok false], some .badType) ∧
    after (exec (.init (recordOf 2 false [8, 8])) { State.reset with alloc := [false] }) (·.reason) = some (some .alloc) ∧
    after (exec (.init (recordOf 2 false [8, 8])) { State.reset with alloc := [false], params := { allocMayFail := false } })
      (·.responses) = some [.ok true] := by decide
/-- V55. -/
theorem test_poll_v55 : after (exec .poll State.reset) (·.fault) = some (some ⟨.notConfigured, 0x0002⟩) := by decide
/-- V54: busy. -/
theorem test_rdcur_v54 : after (exec (.rdcur 0) (small true true)) (·.fault) = some (some ⟨.busy, 0x0003⟩) := by decide
/-- P1, line 4. -/
theorem test_rdcur_p1 : after (exec (.rdcur 1) (small true false)) (·.responses) = some [.cur 0x05] := by decide
/-- P1, line 7. -/
theorem test_rdcnt_p1 : after (exec .rdcnt (small true false)) (·.responses) = some [.count 0x02] := by decide
/-- V53: a reserved word is rejected before the busy check. -/
theorem test_step_v53 :
    after (step { small true true with host := [.present ⟨0x0102, .zero {}⟩] }) (·.fault) =
      some (some ⟨.reservedOp, 0x0102⟩) := by decide
/-- R212: a faulted state has no further step. -/
theorem test_step_faulted :
    after (step { small true false with fault := some ⟨.indexRange, 0x0403⟩ }) (·.phase) = none := by decide
/-- The host's question: a placed row runs as the first instruction after reset. -/
theorem test_placed_words :
    after (step (State.reset.withFetchWord 16 0x0001)) (·.reason) = some (some .zeroCount) ∧
    after (step (State.reset.withFetchWord 8 0x7)) (·.mstep) = some 0x8 ∧
    after (step (State.reset.withFetchWord 8 0xC)) (·.responses) = some [.changed false] := by decide

/-! ## Witnesses: for each statement with hypotheses, a state and operands that meet them -/

theorem witness_WordsDecodeAsTabulated :
    (InitRecord.zero {}).typeIn.length = ({} : Params).maxCount ∧ (InitRecord.zero {}).countIn < 2 ^ ({} : Params).countInWidth ∧
    ∀ t ∈ (InitRecord.zero {}).typeIn, t < 2 ^ ({} : Params).typeWidth := by decide

theorem witness_EveryInstructionReadBackFromItsCode :
    (Instr.init (.zero {})).wellFormed {} = true ∧ (Instr.rdcur 0xFF).wellFormed {} = true := by decide

theorem witness_AcceptedCodeIsTheInstructionsCode :
    decode {} (.command ⟨0xFF03, .zero {}⟩) = .ok (.rdcur 0xFF) ∧ decode {} (.micro 0xC) = .ok .pollDone := ⟨rfl, rfl⟩

theorem witness_ReservedOpcodeFaults :
    (0x0005 : CmdWord).toNat % 256 ≠ 1 ∧ (0x0005 : CmdWord).toNat % 256 ≠ 2 ∧ (0x0005 : CmdWord).toNat % 256 ≠ 3 ∧
    (0x0005 : CmdWord).toNat % 256 ≠ 4 ∧ (0xFF00 : CmdWord).toNat % 256 = 0 := by decide

theorem witness_ArgumentFieldRules :
    ((0x0101 : CmdWord).toNat % 256 = 1 ∧ (0x0101 : CmdWord).toNat / 256 ≠ 0) ∧ (0xFF03 : CmdWord).toNat % 256 = 3 ∧
    ((small true false).phase = .idle ∧ (small true false).count = some 2 ∧ (2 : Byte).toNat ≤ (2 : Byte).toNat) := by decide

theorem witness_MicroStepIdentifiers :
    (0xD : Nat) ≤ (0xD : Nibble).toNat ∧ decode {} (.command ⟨0x0002, .zero {}⟩) = .ok .poll ∧
    (decodingAt 1 0x7).i = some 1 ∧
    entryAt (decodingAt 1 0x7).raw (1 / 2) = some 0xC7 ∧
    entryAt (decodingAt 1 0x7).type 1 = some 0x08 := ⟨by decide, rfl, rfl, rfl, rfl⟩

theorem witness_InhAssertDrivesInhibitWhenConfigured :
    (small false true).hasInh = some true ∧ { small false true with hasInh := some false }.hasInh = some false := by decide

theorem witness_InhReleaseStartsShifting : (small true true).hasInh = some true := by decide

theorem witness_ShiftBitSamplesThenPulsesClock :
    (shiftingAt 0 accUndefined).j = some 0 ∧ (shiftingAt 7 acc0xC7).j = some 7 := ⟨rfl, rfl⟩

theorem witness_EightShiftsDefineAccumulator :
    (shiftingAt 0 accUndefined).j = some 0 ∧ (∃ t, exec .shiftBit (shiftingAt 7 acc0xC7) = .next t) ∧
    (shiftingAt 7 acc0xC7).j = some 7 ∧ ∀ b : Fin 8, 7 < b.val + 7 → (shiftingAt 7 acc0xC7).acc[b] ≠ none :=
  ⟨rfl, ⟨_, rfl⟩, rfl, by decide⟩

theorem witness_StoreByteCommitsAccumulator :
    (∀ b : Fin 8, (shiftingAt 7 acc0xC7).acc[b] = some ((0xC7 : Byte).getLsbD b.val)) ∧
    (shiftingAt 7 acc0xC7).k = some 0 ∧ (shiftingAt 7 acc0xC7).count = some 2 ∧
    0 < (shiftingAt 7 acc0xC7).raw.length := by decide

theorem witness_SplitSelectsNibbleOfSwitch :
    (decodingAt 1 0x7).i = some 1 ∧ entryAt (decodingAt 1 0x7).raw 0 = some 0xC7 ∧
    entryAt (decodingAt 1 0x7).type 1 = some 0x08 ∧ entryAt (decodingAt 0 0x7).type 0 = some 0x10 := by decide

theorem witness_DecodeGrayConvertsReflectedBinary : (decodingAt 0 0x8).code = some 0xC := by decide

theorem witness_DecodeLut8FollowsTable : (decodingAt 1 0x9).code = some 0xC := by decide

theorem witness_DecodeLut12FollowsTable : (decodingAt 1 0xA).code = some 0xC := by decide

theorem witness_DispatchDecodesByPositionType :
    (decodingAt 0 0x7).i = some 0 ∧
    entryAt (decodingAt 0 0x7).raw (pairByte 0) = some 0xC7 ∧
    entryAt (decodingAt 0 0x7).type 0 = some 0x10 := by decide

theorem witness_CompareCommitUpdatesEntryAndSnapshot :
    (decodingAt 0 0xB).idx = some 8 ∧ (decodingAt 0 0xB).i = some 0 ∧
    entryAt (decodingAt 0 0xB).prev 0 = some 0xFF ∧ (decodingAt 0 0xB).count = some 2 ∧
    0 < (decodingAt 0 0xB).cur.length ∧ (decodingAt 0 0xB).params.Legal :=
  ⟨rfl, rfl, rfl, rfl, by decide, default_legal⟩

theorem witness_PollDoneRespondsWithFlag : (decodingAt 1 0xC).chg = some false := by decide

theorem witness_InitConfiguresBlock :
    (small true false).params.Legal ∧ (small true false).phase = .idle ∧ State.reset.phase = .unconfigured ∧
    2 = min ((recordOf 1 true [8, 16]).countIn + (recordOf 1 true [8, 16]).countIn % 2) (small true false).params.maxCount ∧
    (∀ i, i < 2 → ∃ ty, (recordOf 1 true [8, 16]).typeIn[i]? = some ty ∧ ty ∈ (small true false).params.positionTypes) ∧
    (small true false).allocDraw = true := by
  refine ⟨default_legal, rfl, rfl, rfl, ?_, rfl⟩
  intro i hi
  rcases (show i = 0 ∨ i = 1 by omega) with rfl | rfl
  · exact ⟨8, rfl, by decide⟩
  · exact ⟨16, rfl, by decide⟩

/-- The clause of each failure reason: a zero count, an illegal type of the padding switch, a failed allocation. -/
theorem witness_InitFailureDiscardsEverything :
    State.reset.params.Legal ∧ State.reset.phase = .unconfigured ∧
    (0 = min ((recordOf 0 false []).countIn + (recordOf 0 false []).countIn % 2) State.reset.params.maxCount ∧
      (recordOf 0 false []).typeIn.length = State.reset.params.maxCount) ∧
    (2 = min ((recordOf 1 false [8]).countIn + (recordOf 1 false [8]).countIn % 2) State.reset.params.maxCount ∧
      (recordOf 1 false [8]).typeIn.length = State.reset.params.maxCount ∧
      ∃ i ty, i < 2 ∧ (recordOf 1 false [8]).typeIn[i]? = some ty ∧ ty ∉ State.reset.params.positionTypes) ∧
    (State.reset.params.allocMayFail = true ∧ { State.reset with alloc := [false] }.allocDraw = false ∧
      ∀ i, i < 2 → ∃ ty, (recordOf 2 false [8, 16]).typeIn[i]? = some ty ∧ ty ∈ State.reset.params.positionTypes) :=
  ⟨default_legal, rfl, ⟨rfl, rfl⟩, ⟨rfl, rfl, 1, 0x00, by decide, rfl, by decide⟩, rfl, rfl,
    witness_InitConfiguresBlock.2.2.2.2.1⟩

theorem witness_PollStartsLatching : (small false false).phase = .idle := rfl

theorem witness_RdcurReturnsCurrentEntry :
    (small true true).phase = .latching ∧ State.reset.phase = .unconfigured ∧
    ((small true false).count = some 2 ∧ (2 : Byte).toNat ≤ (2 : Byte).toNat) ∧ (1 : Byte).toNat < (2 : Byte).toNat ∧
    entryAt (small false false).cur 1 = none ∧ entryAt (small true false).cur 1 = some 0x05 := by decide

theorem witness_RdcntReturnsEffectiveCount :
    (0x0104 : CmdWord).toNat % 256 = 4 ∧ (0x0104 : CmdWord).toNat / 256 ≠ 0 ∧
    (small true true).phase = .latching ∧ State.reset.phase = .unconfigured ∧ (small true false).phase = .idle ∧
    (small true false).count = some 2 ∧ (small true false).Inv :=
  ⟨rfl, by decide, rfl, rfl, rfl, rfl, test_small_inv _ _⟩

theorem witness_CommandsDoNotReadPrivateStorage :
    Instr.rdcnt.hostIssuable = true ∧ ∃ t, exec .rdcnt (small true false) = .next t := ⟨rfl, _, rfl⟩

theorem witness_ReadsHaveNoSideEffect :
    ∃ t, exec (.rdcur 1) (small true false) = .next t ∧ t.responses = (small true false).responses ++ [.cur 0x05] :=
  ⟨_, rfl, rfl⟩

theorem witness_AcceptanceChecksInOrder :
    (InitRecord.zero {}).wellFormed {} = true ∧ (0x0103 : CmdWord).toNat % 256 = 3 ∧ (0x0103 : CmdWord).toNat / 256 = 1 ∧
    (0x0403 : CmdWord).toNat / 256 = 4 ∧ (small false false).phase = .idle ∧ (small false false).count = some 2 ∧
    entryAt (small false false).cur 1 = none ∧ (small true true).phase = .latching := by decide

/-- R201: the code of each fault. -/
theorem test_fault_codes :
    [FaultKind.reservedOp, .busy, .notConfigured, .indexRange, .unwrittenRead].map FaultKind.code = [1, 2, 3, 4, 5] := by rfl

/-- Its first clause: a recorded fault and no power-on reset. -/
theorem witness_AcceptanceChecksInOrder_halted :
    { State.reset with fault := some ⟨.busy, 0x0002⟩ }.fault = some ⟨.busy, 0x0002⟩ ∧
    ∀ rest, State.reset.host ≠ .powerOn :: rest := ⟨rfl, fun _ h => nomatch h⟩

theorem witness_FaultEntryChangesOnlyFault :
    (∃ t, exec .poll State.reset = .next t ∧ t.fault ≠ State.reset.fault) ∧
    ({ State.reset with fault := some ⟨.busy, 0x0002⟩ }.fault = some ⟨.busy, 0x0002⟩ ∧
      ∀ rest, State.reset.host ≠ .powerOn :: rest) :=
  ⟨⟨_, rfl, by decide⟩, rfl, fun _ h => nomatch h⟩

theorem witness_UndefinedReadsStopByName :
    State.reset.hasInh = none ∧ State.reset.j = none ∧ State.reset.acc[(0 : Fin 8)] = none ∧ State.reset.i = none ∧
    State.reset.code = none ∧ State.reset.idx = none ∧ State.reset.chg = none := by decide

/-- The clauses of the same statement past the first ⊥: an element after it, and a type that is none of R76's. -/
theorem witness_UndefinedReadsStopByName_later :
    ((∀ b : Fin 8, { State.reset with acc := acc0xC7 }.acc[b] ≠ none) ∧ { State.reset with acc := acc0xC7 }.k = none) ∧
    ((∀ b : Fin 8, { shiftingAt 7 acc0xC7 with count := none }.acc[b] ≠ none) ∧
      { shiftingAt 7 acc0xC7 with count := none }.k ≠ none) ∧
    (entryAt (decodingAt 2 0x7).raw (2 / 2) = none) ∧
    (entryAt { decodingAt 2 0x7 with raw := List.replicate 50 (some 0x00) }.raw (2 / 2) ≠ none ∧
      entryAt (decodingAt 2 0x7).type 2 = none) ∧
    (entryAt { decodingAt 0 0x7 with type := List.replicate 100 (some 0x07) }.type 0 = some 0x07) ∧
    ((decodingAt 2 0xB).idx ≠ none ∧ entryAt (decodingAt 2 0xB).prev 2 = none) ∧
    entryAt (decodingAt 0 0xB).prev 0 ≠ none ∧ { small true false with count := none }.phase = .idle ∧
    (InitRecord.empty.typeIn.length ≠ State.reset.params.maxCount ∧ 2 ^ State.reset.params.countInWidth ≤ 65536 ∧
      2 ^ State.reset.params.typeWidth ≤ 0x100) := by decide

theorem witness_OnlyPowerOnClearsFault :
    ∃ t, step { State.reset with fault := some ⟨.busy, 0x0002⟩, host := [.powerOn] } = .next t := ⟨_, rfl⟩

theorem witness_PowerOnResetWins : { small true true with host := [.powerOn] }.host = .powerOn :: [] := rfl

theorem witness_StepRunsDecodedInstruction :
    (small true false).fault = none ∧ (small true false).phase.busy = false ∧ (small true true).phase.busy = true ∧
    { small true false with host := [.issue ⟨0x0005, .zero {}⟩] }.host = .issue ⟨0x0005, .zero {}⟩ :: [] ∧
    (small true true).host = [] ∧ decode {} (.command ⟨0x0004, .zero {}⟩) = .ok .rdcnt ∧
    decode {} (.micro (small true true).mstep) = .ok .inhAssert := ⟨rfl, rfl, rfl, rfl, rfl, rfl, rfl⟩

theorem witness_FreeBlockWaits : (small true false).fault = none ∧ (small true false).phase = .idle ∧
    (small true false).host = [] := ⟨rfl, rfl, rfl⟩

theorem witness_IssuedCommandWaitsForPoll :
    { small true true with host := [.issue ⟨0x0004, .zero {}⟩] }.phase.busy = true ∧
    ∃ t, step { small true true with host := [] } = .next t := ⟨rfl, _, rfl⟩

theorem witness_ClampingOrderIsIndifferent : ({} : Params).Legal ∧ { maxCount := 8 : Params }.Legal :=
  ⟨default_legal, by refine ⟨?_, ?_, ?_, ?_, ?_, ?_⟩ <;> decide⟩

theorem witness_OwnFieldsFrame :
    (∃ t, exec (.init (recordOf 2 false [8, 8])) { small true false with alloc := [true] } = .next t) ∧
    (∃ t, exec (.init (recordOf 2 false [8, 8])) (small true true) = .next t) ∧ (small true true).phase = .latching :=
  ⟨⟨_, rfl⟩, ⟨_, rfl⟩, rfl⟩

/-- SHIFT_BIT and RDCNT are instructions that write neither the configuration, the buffer, CHG, nor the other registers named. -/
theorem witness_writers :
    (∃ t, exec .shiftBit (shiftingAt 0 accUndefined) = .next t) ∧ (∃ t, exec .rdcnt (small true false) = .next t) ∧
    (∃ t, exec .compareCommit (decodingAt 0 0xB) = .next t) ∧
    (∃ t, exec (.init (recordOf 2 false [8, 8])) { State.reset with alloc := [true] } = .next t) :=
  ⟨⟨_, rfl⟩, ⟨_, rfl⟩, ⟨_, rfl⟩, ⟨_, rfl⟩⟩

theorem witness_EveryStepKeepsInvariant : (small true true).Inv ∧ ∃ t, step (small true true) = .next t :=
  ⟨test_small_inv _ _, _, rfl⟩

theorem witness_InvariantStatesAlwaysStep : (small true true).Inv ∧ (small true true).fault = none ∧
    (InitRecord.zero {}).wellFormed {} = true := ⟨test_small_inv _ _, rfl, by decide⟩

theorem witness_SnapshotEqualsCurrentBetweenPolls :
    (small true false).Inv ∧ (small true false).phase = .idle ∧
    ∃ i, i < (small true false).switches ∧ entryAt (small true false).cur i ≠ none :=
  ⟨test_small_inv _ _, rfl, 1, by decide, by decide⟩

theorem witness_SamplingPhasesReceiveFrame :
    (small false true).Inv ∧ (small false true).Quiet ∧ (small false true).mstep = 0x1 ∧
    (small false true).count.map BitVec.toNat = some 2 := ⟨test_small_inv _ _, ⟨rfl, rfl⟩, rfl, rfl⟩

/-- The invariant does not speak of the host's inputs or the environment's answers. -/
theorem inv_of_inputs {s : State} (h : s.Inv) (host : List HostInput) (serial : List Bit) :
    { s with host := host, serial := serial }.Inv := by
  obtain ⟨hz, hc, hb, hs, hl⟩ := h
  exact ⟨⟨hz.1, hz.2, hz.3, hz.4, hz.5⟩, ⟨hc.1, hc.2, hc.3, hc.4, hc.5, hc.6, hc.7⟩, ⟨hb.1, hb.2, hb.3, hb.4⟩,
    ⟨hs.1, hs.2, hs.3, hs.4, hs.5, hs.6, hs.7, hs.8, hs.9, hs.10, hs.11, hs.12⟩, ⟨hl.1, hl.2, hl.3⟩⟩

/-- The small block after a poll, in Idle, with the host's inputs and the environment's answers. -/
def waiting (host : List HostInput) (serial : List Bit) : State :=
  { small true false with host := host, serial := serial }

theorem waiting_inv (host : List HostInput) (serial : List Bit) : (waiting host serial).Inv :=
  inv_of_inputs (test_small_inv true false) host serial

theorem witness_PhaseTransitions :
    ∃ t, step (waiting [.present ⟨0x0002, .zero {}⟩] []) = .next t ∧ t.phase = .latching := ⟨_, rfl, rfl⟩

theorem witness_CompletedPollResult :
    (waiting [.present ⟨0x0002, .zero {}⟩] [true]).Inv ∧ (waiting [.present ⟨0x0002, .zero {}⟩] [true]).fault = none ∧
    (waiting [.present ⟨0x0002, .zero {}⟩] [true]).phase = .idle ∧
    entryAt (waiting [.present ⟨0x0002, .zero {}⟩] [true]).type 1 = some 0x08 := ⟨waiting_inv _ _, rfl, rfl, by decide⟩

/-- INIT with one switch of 8 positions, to which a padding switch of 16 positions is added, and a POLL. -/
def initThenPoll : List HostInput := [.issue ⟨0x0001, recordOf 1 true [8, 16]⟩, .issue ⟨0x0002, .zero {}⟩]

theorem witness_FirstPollReportsChange :
    (waiting initThenPoll []).Inv ∧ (waiting initThenPoll []).fault = none ∧ (waiting initThenPoll []).phase = .idle ∧
    (recordOf 1 true [8, 16]).typeIn.length = 100 ∧
    2 = min ((recordOf 1 true [8, 16]).countIn + (recordOf 1 true [8, 16]).countIn % 2) 100 ∧
    (∀ i, i < 2 → ∃ ty, (recordOf 1 true [8, 16]).typeIn[i]? = some ty ∧ ty ∈ State.reset.params.positionTypes) ∧
    (waiting initThenPoll []).allocDraw = true :=
  ⟨waiting_inv _ _, rfl, rfl, rfl, rfl, witness_InitConfiguresBlock.2.2.2.2.1, rfl⟩

/-- Two POLLs. -/
def twoPolls : List HostInput := [.issue ⟨0x0002, .zero {}⟩, .issue ⟨0x0002, .zero {}⟩]

theorem witness_RepeatedPollReportsNoChange :
    (waiting twoPolls (List.replicate 16 true)).Inv ∧ (waiting twoPolls (List.replicate 16 true)).fault = none ∧
    (waiting twoPolls (List.replicate 16 true)).phase = .idle ∧
    ∀ m, m < 4 * (waiting twoPolls (List.replicate 16 true)).switches →
      (waiting twoPolls (List.replicate 16 true)).serialAt (4 * (waiting twoPolls (List.replicate 16 true)).switches + m) =
        (waiting twoPolls (List.replicate 16 true)).serialAt m := by
  refine ⟨waiting_inv _ _, rfl, rfl, fun m hm => ?_⟩
  have h : ∀ k : Fin 16, (waiting twoPolls (List.replicate 16 true)).serialAt k.val = true := by
    intro k; fin_cases k <;> rfl
  have h8 : m < 8 := hm
  exact (h ⟨8 + m, by omega⟩).trans (h ⟨m, by omega⟩).symm

end Sys2Proof.Tests
end

section
/-!
PROOF. The parameters of R7: what the state after power-on reset carries, and the values every switch code can take.
-/

namespace Sys2Proof.Machine

/-- R7, R230: reset keeps the parameters the machine is built with. -/
@[simp] theorem resetWith_params (ps : Params) : (State.resetWith ps).params = ps := rfl

/-- R7: power-on reset carries the default parameters. -/
@[simp] theorem reset_params : State.reset.params = {} := resetWith_params {}

/-- R7, R76: the default position types. -/
theorem mem_default_positionTypes (t : Nat) : t ∈ ({} : Params).positionTypes ↔ t = 8 ∨ t = 12 ∨ t = 16 := by
  simp

/-- R7: CODE_WIDTH is 4, so every number of 4 bits is a switch code. -/
theorem exists_nibble_toNat_eq {n : Nat} (h : n < 2 ^ 4) : ∃ c : Nibble, c.toNat = n :=
  ⟨BitVec.ofNatLT n h, BitVec.toNat_ofNatLT n h⟩

/-- Settles O1: the scalar defaults are the fields of `({} : Params)`, the two derived ones its legality. -/
theorem parameterDefaults : Obligations.ParameterDefaults := by
  unfold Obligations.ParameterDefaults
  rw [reset_params]
  exact ⟨resetWith_params, rfl, default_legal.bytes, rfl, rfl, rfl, rfl, default_legal.sentinelOnes, rfl, rfl, rfl, rfl,
    mem_default_positionTypes, fun c => c.isLt, fun _ h => exists_nibble_toNat_eq h⟩

end Sys2Proof.Machine
end

section
/-!
PROOF. The decoder of command words (R71 to R74): the two fields of a word, the instruction each word stands for, and the words it
rejects by name.
-/

namespace Sys2Proof

/-! ### The fields of a command word (R71) -/

theorem opField_toNat (w : CmdWord) : (opField w).toNat = w.toNat % 256 := by
  simp [opField]

theorem argField_toNat (w : CmdWord) : (argField w).toNat = w.toNat / 256 := by
  have := w.isLt
  simp only [argField, BitVec.extractLsb'_toNat, Nat.shiftRight_eq_div_pow]
  omega

theorem opField_eq_iff (w : CmdWord) (op : Byte) : opField w = op ↔ w.toNat % 256 = op.toNat := by
  rw [BitVec.toNat_eq, opField_toNat]

theorem argField_eq_iff (w : CmdWord) (arg : Byte) : argField w = arg ↔ w.toNat / 256 = arg.toNat := by
  rw [BitVec.toNat_eq, argField_toNat]

theorem argField_eq_ofNat (w : CmdWord) : argField w = BitVec.ofNat 8 (w.toNat / 256) := by
  rw [← argField_toNat, BitVec.ofNat_toNat, BitVec.setWidth_eq]

/-! ### Operands -/

/-- R74: an opcode without an operand in CMD rejects a word whose ARG is not 0x00. -/
theorem withZeroArg_of_ne {w : CmdWord} (h : argField w ≠ 0x00) (i : Instr) : withZeroArg w i = .error (.nonzeroArg w) :=
  if_neg h

theorem withZeroArg_eq_ok_iff (w : CmdWord) (i j : Instr) : withZeroArg w i = .ok j ↔ argField w = 0x00 ∧ i = j := by
  by_cases h : argField w = 0x00
  · rw [withZeroArg, if_pos h, Except.ok.injEq, and_iff_right h]
  · rw [withZeroArg_of_ne h]
    exact ⟨nofun, fun hij => absurd hij.1 h⟩

theorem withRecord_eq_ok_iff (ps : Params) (r : InitRecord) (i : Instr) :
    withRecord ps r = .ok i ↔ r.wellFormed ps = true ∧ i = .init r := by
  unfold withRecord
  split <;> simp [*, eq_comm]

/-! ### The opcode map (R72 to R74) -/

section
variable {ps : Params} {p : Presented} {i : Instr}

theorem decodeCommand_of_init (h : opField p.word = 0x01) :
    decodeCommand ps p = (withZeroArg p.word (.init p.record)).bind fun _ => withRecord ps p.record := by
  simp [decodeCommand, h]

theorem decodeCommand_of_poll (h : opField p.word = 0x02) : decodeCommand ps p = withZeroArg p.word .poll := by
  simp [decodeCommand, h]

theorem decodeCommand_of_rdcur (h : opField p.word = 0x03) : decodeCommand ps p = .ok (.rdcur (argField p.word)) := by
  simp [decodeCommand, h]

theorem decodeCommand_of_rdcnt (h : opField p.word = 0x04) : decodeCommand ps p = withZeroArg p.word .rdcnt := by
  simp [decodeCommand, h]

/-- R73. -/
theorem decodeCommand_of_reserved (h1 : opField p.word ≠ 0x01) (h2 : opField p.word ≠ 0x02) (h3 : opField p.word ≠ 0x03)
    (h4 : opField p.word ≠ 0x04) : decodeCommand ps p = .error (.reservedOp p.word) := by
  rw [decodeCommand, if_neg h1, if_neg h2, if_neg h3, if_neg h4]

/-- R74: INIT, POLL and RDCNT take no operand in CMD. INIT's ARG is read before its record. -/
theorem decodeCommand_of_nonzeroArg (hop : opField p.word = 0x01 ∨ opField p.word = 0x02 ∨ opField p.word = 0x04)
    (harg : argField p.word ≠ 0x00) : decodeCommand ps p = .error (.nonzeroArg p.word) := by
  rcases hop with h | h | h
  · rw [decodeCommand_of_init h, withZeroArg_of_ne harg]; rfl
  · rw [decodeCommand_of_poll h, withZeroArg_of_ne harg]
  · rw [decodeCommand_of_rdcnt h, withZeroArg_of_ne harg]

/-- R72, R74, R75: the words the decoder accepts, and what each stands for. -/
theorem decodeCommand_ok (h : decodeCommand ps p = .ok i) :
    (opField p.word = 0x01 ∧ argField p.word = 0x00 ∧ p.record.wellFormed ps = true ∧ i = .init p.record) ∨
      (opField p.word = 0x02 ∧ argField p.word = 0x00 ∧ i = .poll) ∨
      (opField p.word = 0x03 ∧ i = .rdcur (argField p.word)) ∨
      (opField p.word = 0x04 ∧ argField p.word = 0x00 ∧ i = .rdcnt) := by
  by_cases h1 : opField p.word = 0x01
  · by_cases harg : argField p.word = 0x00
    · rw [decodeCommand_of_init h1, (withZeroArg_eq_ok_iff _ _ _).2 ⟨harg, rfl⟩] at h
      exact .inl ⟨h1, harg, (withRecord_eq_ok_iff _ _ _).1 h⟩
    · cases (decodeCommand_of_nonzeroArg (.inl h1) harg).symm.trans h
  by_cases h2 : opField p.word = 0x02
  · obtain ⟨harg, rfl⟩ := (withZeroArg_eq_ok_iff _ _ _).1 ((decodeCommand_of_poll h2).symm.trans h)
    exact .inr (.inl ⟨h2, harg, rfl⟩)
  by_cases h3 : opField p.word = 0x03
  · cases (decodeCommand_of_rdcur h3).symm.trans h
    exact .inr (.inr (.inl ⟨h3, rfl⟩))
  by_cases h4 : opField p.word = 0x04
  · obtain ⟨harg, rfl⟩ := (withZeroArg_eq_ok_iff _ _ _).1 ((decodeCommand_of_rdcnt h4).symm.trans h)
    exact .inr (.inr (.inr ⟨h4, harg, rfl⟩))
  · cases (decodeCommand_of_reserved h1 h2 h3 h4).symm.trans h

/-- R85: no command word is a micro-step. -/
theorem decodeCommand_hostIssuable (h : decodeCommand ps p = .ok i) : i.hostIssuable = true := by
  obtain ⟨-, -, -, rfl⟩ | ⟨-, -, rfl⟩ | ⟨-, rfl⟩ | ⟨-, -, rfl⟩ := decodeCommand_ok h <;> rfl

end

/-- R85: MSTEP 0x0 and 0xD to 0xF name nothing. -/
theorem decodeMicro_of_unnamed {id : Nibble} (h : id = 0x0 ∨ 0xD ≤ id.toNat) : decodeMicro id = .error (.unnamedMStep id) := by
  have hid : id = 0x0 ∨ id = 0xD ∨ id = 0xE ∨ id = 0xF := by revert id; decide
  rcases hid with rfl | rfl | rfl | rfl <;> rfl

end Sys2Proof
end

section
/-!
PROOF. What the block does with a rejected command word (R73, R74, R202), an RDCUR past the last switch (R74, R188), and the decoder
SPLIT goes to (R120, R145).
-/

namespace Sys2Proof.Machine

/-- Running a code the decoder rejects is rejecting it. -/
theorem runCode_error {e : Encoded} {err : DecodeError} (s : State) (h : decode s.params e = .error err) :
    runCode e s = rejectCode err s := by
  simp [runCode, h]

/-- Settles O5: the decoder names the word reserved, and rejecting it raises the fault and nothing else. -/
theorem reservedOpcodeFaults : Obligations.ReservedOpcodeFaults := by
  intro s w r h1 h2 h3 h4
  have hd : decode s.params (.command ⟨w, r⟩) = .error (.reservedOp w) :=
    decodeCommand_of_reserved (mt (opField_eq_iff w _).1 h1) (mt (opField_eq_iff w _).1 h2) (mt (opField_eq_iff w _).1 h3)
      (mt (opField_eq_iff w _).1 h4)
  exact runCode_error s hd

/-- R74, R202: a non-zero ARG beside an opcode that takes none. -/
theorem runCode_of_nonzeroArg (s : State) {w : CmdWord} (r : InitRecord)
    (hop : opField w = 0x01 ∨ opField w = 0x02 ∨ opField w = 0x04) (harg : argField w ≠ 0x00) :
    runCode (.command ⟨w, r⟩) s = .next (s.raiseFault .reservedOp w) :=
  have hd : decode s.params (.command ⟨w, r⟩) = .error (.nonzeroArg w) := decodeCommand_of_nonzeroArg hop harg
  runCode_error s hd

/-- R188: in Idle, RDCUR of an index at or above COUNT. -/
theorem execRdcur_of_count_le {s : State} {i n : Byte} (hp : s.phase = .idle) (hn : s.count = some n) (hi : n.toNat ≤ i.toNat) :
    execRdcur i s = .next (s.raiseFault .indexRange (rdcurWord i)) := by
  rw [execRdcur, whenConfigured_idle hp, hn, need_some, if_pos hi]

/-- Settles O6: the three sentences of R74, each by its law about the decoder or about RDCUR. -/
theorem argumentFieldRules : Obligations.ArgumentFieldRules := by
  refine ⟨fun s w r hop harg => ?_, fun ps w r hop => ?_, fun s i n hp hn hi => ?_⟩
  · exact runCode_of_nonzeroArg s r (hop.imp (opField_eq_iff w _).2 (.imp (opField_eq_iff w _).2 (opField_eq_iff w _).2))
      (mt (argField_eq_iff w _).1 harg)
  · rw [← argField_eq_ofNat]
    exact decodeCommand_of_rdcur ((opField_eq_iff w _).2 hop)
  · exact ⟨_, execRdcur_of_count_le hp hn hi, raiseFault_fault s _ _⟩

/-- A type that has a decoder is sent to it. -/
theorem gotoDecoder_of_decoderFor {t : Nat} {id : Nibble} (s : State) (h : decoderFor t = some id) :
    s.gotoDecoder t = .next (s.goto id) := by
  simp [State.gotoDecoder, h]

section
variable {s : State} {i t : Nat} {b : Byte}

/-- R120: SPLIT, when the elements it reads hold values. -/
theorem execSplit_eq (hi : s.i = some i) (hb : entryAt s.raw (pairByte i) = some b) (ht : entryAt s.type i = some t) :
    execSplit s = { s with code := some (codeOf b i) }.gotoDecoder t := by
  simp only [execSplit, hi, hb, ht, need_some]

/-- R120, R145: after SPLIT the micro-step to come is the decoder of TYPE[I]. -/
theorem execSplit_mstep {id : Nibble} (hi : s.i = some i) (hb : entryAt s.raw (pairByte i) = some b)
    (ht : entryAt s.type i = some t) (hid : decoderFor t = some id) : ∃ u, execSplit s = .next u ∧ u.mstep = id :=
  ⟨_, (execSplit_eq hi hb ht).trans (gotoDecoder_of_decoderFor _ hid), goto_mstep _ _⟩

end

/-- Settles O7: the encoder's table, the ids and words the decoder does not take for a micro-step, and `decoderFor` at each type. -/
theorem microStepIdentifiers : Obligations.MicroStepIdentifiers := by
  refine ⟨?_, fun id h ps => decodeMicro_of_unnamed h, fun ps p i h => decodeCommand_hostIssuable h, fun s i b t hi hb ht => ?_⟩
  · exact ⟨rfl, rfl, rfl, rfl, rfl, rfl, rfl, rfl, rfl, rfl, rfl, rfl⟩
  · refine ⟨?_, ?_, ?_⟩ <;> rintro rfl <;> exact execSplit_mstep hi hb ht (by decide)

end Sys2Proof.Machine
end

section
/-!
PROOF. The micro-steps of the Latching and Shifting phases (R100 to R104): what the accumulator holds after a write and as a byte, what
each shared operation does to the block, and each micro-step's next state when the elements it reads hold values.
-/

namespace Sys2Proof.Machine

/-! ### The accumulator (R28, R103, R104) -/

/-- R28: no bit of an undefined accumulator holds a value. -/
@[simp] theorem accUndefined_getElem (b : Fin 8) : accUndefined[b] = none := by
  simp [accUndefined]

/-- R103: bit `b` of ACC is the place of the J-th sampled bit exactly when `b` and J add to 7. -/
theorem accPlace_val_eq_iff (j b : Fin 8) : (accPlace j).val = b.val ↔ b.val + j.val = 7 := by
  simp only [accPlace]
  omega

/-- R103: the place of the J-th bit takes the value written, and every other bit of ACC is as before. -/
theorem getElem_set_accPlace (a : Vector (Option Bit) 8) (j b : Fin 8) (v : Option Bit) :
    (a.set (accPlace j).val v (accPlace j).isLt)[b] = if b.val + j.val = 7 then v else a[b] := by
  simp only [Fin.getElem_fin, Vector.getElem_set, accPlace_val_eq_iff]

/-- A byte is the byte of its own bits. -/
theorem byteOfBits_getLsbD (v : Byte) :
    byteOfBits (v.getLsbD 7) (v.getLsbD 6) (v.getLsbD 5) (v.getLsbD 4) (v.getLsbD 3) (v.getLsbD 2) (v.getLsbD 1)
      (v.getLsbD 0) = v := by
  revert v; decide

/-- R104: an accumulator whose bits are those of a byte reads as that byte. -/
theorem accByte_eq_some {a : Vector (Option Bit) 8} {v : Byte} (h : ∀ b : Fin 8, a[b] = some (v.getLsbD b.val)) :
    accByte a = some v := by
  have bit (n : Nat) (hn : n < 8) : a[n] = some (v.getLsbD n) := h ⟨n, hn⟩
  simp only [accByte, bit, Option.bind_some, byteOfBits_getLsbD]

/-! ### The shared operations on the block -/

/-- R37: where the sequencer is, is no element of the block. -/
@[simp] theorem goto_block (s : State) (id : Nibble) : (s.goto id).block = s.block := rfl

theorem driveInhibit_block (s : State) (h lvl : Bit) :
    (s.driveInhibit h lvl).block = { s.block with
      inhO := if h then .driven lvl else s.inhO
      hist := s.hist ++ if h then [.drive .inhO lvl] else [] } := by
  rw [driveInhibit_eq]; rfl

@[simp] theorem driveInhibit_responses (s : State) (h lvl : Bit) : (s.driveInhibit h lvl).responses = s.responses := by
  rw [driveInhibit_eq]

theorem pulseLatch_block (s : State) :
    s.pulseLatch.block = { s.block with
      latchO := .driven true
      hist := s.hist ++ [.drive .latchO false, .settle, .drive .latchO true, .settle] } := by
  rw [pulseLatch_eq]; rfl

theorem startShifting_block (s : State) :
    s.startShifting.block =
      { s.block with phase := .shifting, k := some 0, j := some 0, acc := accUndefined } := rfl

theorem shiftIn_block (s : State) (j : Fin 8) :
    (s.shiftIn j).block = { s.block with
      acc := (s.shiftIn j).acc
      clkO := .driven false
      hist := s.hist ++ [.sample s.serialDraw, .drive .clkO true, .settle, .drive .clkO false, .settle] } := by
  rw [shiftIn_eq]; rfl

@[simp] theorem shiftIn_responses (s : State) (j : Fin 8) : (s.shiftIn j).responses = s.responses := by
  rw [shiftIn_eq]

/-- R103: the one bit of ACC that a shift writes. -/
theorem shiftIn_acc_getElem (s : State) (j b : Fin 8) :
    (s.shiftIn j).acc[b] = if b.val + j.val = 7 then some s.serialDraw else s.acc[b] := by
  rw [shiftIn_eq]; exact getElem_set_accPlace s.acc j b _

/-! ### The next state of each micro-step -/

section
variable {s : State}

/-- R100. -/
theorem execInhAssert_eq {h : Bit} (hh : s.hasInh = some h) :
    execInhAssert s = .next ((s.driveInhibit h s.params.inhActive).goto 0x2) := by
  rw [execInhAssert, hh, need_some]

/-- R102. -/
theorem execInhRelease_eq {h : Bit} (hh : s.hasInh = some h) :
    execInhRelease s = .next ((s.driveInhibit h (!s.params.inhActive)).startShifting.goto 0x4) := by
  rw [execInhRelease, hh, need_some]

/-- R103, before the eighth bit. -/
theorem execShiftBit_of_lt {j : Fin 8} (hj : s.j = some j) (h : j.val < 7) :
    execShiftBit s = .next ({ s.shiftIn j with j := some (j + 1) }.goto 0x4) := by
  rw [execShiftBit, hj, need_some, if_pos h]

/-- R103, at the eighth bit. -/
theorem execShiftBit_of_not_lt {j : Fin 8} (hj : s.j = some j) (h : ¬ j.val < 7) :
    execShiftBit s = .next ((s.shiftIn j).goto 0x5) := by
  rw [execShiftBit, hj, need_some, if_neg h]

variable {v n : Byte} {k : Nat}

/-- R104, before the last byte. -/
theorem execStoreByte_of_lt (hv : accByte s.acc = some v) (hk : s.k = some k) (hn : s.count = some n)
    (h : k + 1 < n.toNat / 2) :
    execStoreByte s = .next ({ s.storeRaw k v with k := some (k + 1) }.goto 0x4) := by
  simp only [execStoreByte, hv, hk, hn, need_some, if_pos h]

/-- R104, at the last byte. -/
theorem execStoreByte_of_not_lt (hv : accByte s.acc = some v) (hk : s.k = some k) (hn : s.count = some n)
    (h : ¬ k + 1 < n.toNat / 2) :
    execStoreByte s = .next ({ s.storeRaw k v with phase := .decoding }.goto 0x6) := by
  simp only [execStoreByte, hv, hk, hn, need_some, if_neg h]

end

/-! ### The obligations -/

/-- Settles O11: below the eighth bit J advances, at it J stays; ACC is what the shift leaves in both. -/
theorem shiftBitSamplesThenPulsesClock : Obligations.ShiftBitSamplesThenPulsesClock := by
  intro s j hj
  by_cases h : j.val < 7
  · simp only [if_pos h]
    refine ⟨_, execShiftBit_of_lt hj h, ?_, shiftIn_acc_getElem s j, rfl, shiftIn_responses s j⟩
    exact congrArg (fun b : Block => { b with j := some (j + 1) }) (shiftIn_block s j)
  · simp only [if_neg h]
    refine ⟨_, execShiftBit_of_not_lt hj h, ?_, shiftIn_acc_getElem s j, rfl, shiftIn_responses s j⟩
    rw [← hj]
    exact shiftIn_block s j

/-- Settles O13: ACC reads as the byte, and the write of RAW[K] is the same whether or not a byte is still to come. -/
theorem storeByteCommitsAccumulator : Obligations.StoreByteCommitsAccumulator := by
  intro s v n k hacc hk hn hlen
  have hv := accByte_eq_some hacc
  have hraw := entryAt_setEntry hlen v
  by_cases h : k + 1 < n.toNat / 2
  · simp only [if_pos h]
    exact ⟨_, execStoreByte_of_lt hv hk hn h, rfl, setEntry_length _ _ _, hraw, accUndefined_getElem, rfl, rfl⟩
  · simp only [if_neg h]
    rw [← hk]
    exact ⟨_, execStoreByte_of_not_lt hv hk hn h, rfl, setEntry_length _ _ _, hraw, accUndefined_getElem, rfl, rfl⟩

/-- Settles O8, by what driving the inhibit line does to the block. -/
theorem inhAssertDrivesInhibitWhenConfigured : Obligations.InhAssertDrivesInhibitWhenConfigured :=
  fun s h hh => ⟨_, execInhAssert_eq hh, driveInhibit_block s h _, rfl, driveInhibit_responses s h _⟩

/-- Settles O9, by what the latch pulse does to the block. -/
theorem latchPulseGoesLowThenHigh : Obligations.LatchPulseGoesLowThenHigh :=
  fun s => ⟨_, rfl, pulseLatch_block s, rfl, by rw [pulseLatch_eq]; rfl⟩

/-- Settles O10: the inhibit line as for O8, then the sequencer at the first bit. -/
theorem inhReleaseStartsShifting : Obligations.InhReleaseStartsShifting := by
  intro s h hh
  refine ⟨_, execInhRelease_eq hh, ?_, accUndefined_getElem, rfl, driveInhibit_responses s h _⟩
  rw [goto_block, startShifting_block, driveInhibit_block]
  rfl

end Sys2Proof.Machine
end

section
/-!
PROOF. The nibble splitter (R120): the two nibbles of a byte as numbers, the code of a switch by its parity, and the decoder each legal
type goes to.
-/

namespace Sys2Proof.Machine

/-- R120: byte[7:4] is the quotient by 16. -/
theorem highNibble_eq_ofNat (b : Byte) : highNibble b = BitVec.ofNat 4 (b.toNat / 16) := by
  rw [highNibble, BitVec.extractLsb', Nat.shiftRight_eq_div_pow]

/-- R120: byte[3:0] is the remainder by 16. -/
theorem lowNibble_eq_ofNat (b : Byte) : lowNibble b = BitVec.ofNat 4 (b.toNat % 16) := by
  rw [← BitVec.toNat_inj, lowNibble, BitVec.extractLsb'_toNat, Nat.shiftRight_zero, BitVec.toNat_ofNat, Nat.mod_mod]

/-- R79, R120: an even switch has the high nibble of its pair's byte, an odd one the low nibble. -/
theorem codeOf_eq_ite (b : Byte) (i : Nat) :
    codeOf b i = if i % 2 = 0 then BitVec.ofNat 4 (b.toNat / 16) else BitVec.ofNat 4 (b.toNat % 16) := by
  simp only [codeOf, firstOfPair, beq_iff_eq, highNibble_eq_ofNat, lowNibble_eq_ofNat]

/-- R145: each type of R76 has a decoder. -/
theorem decoderFor_of_legal {t : Nat} (h : t = 0x08 ∨ t = 0x0C ∨ t = 0x10) :
    decoderFor t = some (if t = 0x10 then 0x8 else if t = 0x08 then 0x9 else 0xA) := by
  rcases h with rfl | rfl | rfl <;> rfl

/-- Settles O14: a legal type has a decoder, so SPLIT answers; what it hands on is the code of switch I. -/
theorem splitSelectsNibbleOfSwitch : Obligations.SplitSelectsNibbleOfSwitch := by
  intro s i b t hi hb ht hlegal
  have hnext := (execSplit_eq hi hb ht).trans (gotoDecoder_of_decoderFor _ (decoderFor_of_legal hlegal))
  exact ⟨_, hnext, rfl, rfl, congrArg some (codeOf_eq_ite b i), goto_mstep _ _⟩

end Sys2Proof.Machine
end

section
/-!
PROOF. The Gray decoder (R130): what each decoder answers when there is a code, what the bounded loop of the model returns for any run of
the rule's loop that ends, and the run from a code, whose rounds are counted by the code's binary logarithm.
-/

namespace Sys2Proof.Machine

/-- R130, R140, R142: a decoder, when there is a code, hands its index to COMPARE_COMMIT. -/
theorem decodeWith_eq {s : State} {c : Nibble} (f : Nibble → Nibble) (h : s.code = some c) :
    decodeWith f s = .next ({ s with idx := some (f c), code := none }.goto 0xB) := by
  rw [decodeWith, h, need_some]

/-! ### The loop -/

@[simp] theorem grayRounds_zero_right (fuel : Nat) (n : Nibble) : grayRounds fuel n 0 = n := by
  cases fuel <;> rfl

theorem grayRounds_succ_of_ne (fuel : Nat) (n : Nibble) {m : Nibble} (h : m ≠ 0) :
    grayRounds (fuel + 1) n m = grayRounds fuel (n ^^^ m) (m >>> 1) := by
  rw [grayRounds, if_neg h]

/-- The values `n` and `m` of R130's loop before each round, for a loop that ends after the given number of rounds. -/
def IsGrayRun (rounds : Nat) (n m : Nat → Nibble) : Prop :=
  (∀ r, r < rounds → m r ≠ 0 ∧ n (r + 1) = n r ^^^ m r ∧ m (r + 1) = m r >>> 1) ∧ m rounds = 0

/-- After its first round a run is a run one round shorter. -/
theorem IsGrayRun.tail {rounds : Nat} {n m : Nat → Nibble} (h : IsGrayRun (rounds + 1) n m) :
    IsGrayRun rounds (fun r => n (r + 1)) (fun r => m (r + 1)) :=
  ⟨fun r hr => h.1 (r + 1) (Nat.succ_lt_succ hr), h.2⟩

/-- The model's loop returns what a run leaves, when its bound is no less than the rounds of the run. -/
theorem IsGrayRun.grayRounds_eq {rounds fuel : Nat} {n m : Nat → Nibble} (h : IsGrayRun rounds n m) (hle : rounds ≤ fuel) :
    grayRounds fuel (n 0) (m 0) = n rounds := by
  induction rounds generalizing fuel n m with
  | zero => rw [h.2, grayRounds_zero_right]
  | succ rounds ih =>
    obtain ⟨fuel, rfl⟩ := Nat.exists_eq_add_of_le' (Nat.one_le_of_lt hle)
    obtain ⟨hm, hn', hm'⟩ := h.1 0 rounds.succ_pos
    rw [grayRounds_succ_of_ne fuel _ hm, ← hn', ← hm']
    exact ih h.tail (Nat.le_of_succ_le_succ hle)

/-! ### The run from a code -/

/-- R130: `n` before each round. The value shifted is the code, never `n` itself, so `m` is `c >>> (r + 1)`. -/
def grayPartial (c : Nibble) : Nat → Nibble
  | 0 => c
  | r + 1 => grayPartial c r ^^^ c >>> (r + 1)

/-- How many rounds R130's loop takes for a code. -/
def grayRoundCount (c : Nibble) : Nat := Nat.log 2 c.toNat

/-- A code shifted right is 0 exactly when it lies below the power of two. -/
theorem ushiftRight_eq_zero_iff_lt (c : Nibble) (k : Nat) : c >>> k = 0 ↔ c.toNat < 2 ^ k := by
  rw [← BitVec.toNat_inj, BitVec.toNat_ushiftRight, Nat.shiftRight_eq_div_pow]
  exact Nat.div_eq_zero_iff_lt (Nat.two_pow_pos k)

/-- R130: `m` becomes 0 after as many rounds as the logarithm of the code says. -/
theorem ushiftRight_succ_eq_zero_iff (c : Nibble) (r : Nat) : c >>> (r + 1) = 0 ↔ grayRoundCount c ≤ r := by
  rw [ushiftRight_eq_zero_iff_lt, grayRoundCount, ← Nat.lt_succ_iff]
  exact ⟨Nat.log_lt_of_lt_pow' r.succ_ne_zero, Nat.lt_pow_of_log_lt Nat.one_lt_two⟩

theorem isGrayRun_of_code (c : Nibble) : IsGrayRun (grayRoundCount c) (grayPartial c) (fun r => c >>> (r + 1)) := by
  refine ⟨fun r hr => ⟨?_, rfl, BitVec.shiftRight_add c (r + 1) 1⟩, (ushiftRight_succ_eq_zero_iff c _).2 le_rfl⟩
  exact mt (ushiftRight_succ_eq_zero_iff c r).1 (Nat.not_le.2 hr)

/-- A nibble's four shifts bound the loop. -/
theorem grayRoundCount_lt (c : Nibble) : grayRoundCount c < 4 :=
  Nat.log_lt_of_lt_pow' four_ne_zero c.isLt

/-- R130: DECODE_GRAY's index is the `n` that the loop leaves. -/
theorem grayIndex_eq_grayPartial (c : Nibble) : grayIndex c = grayPartial c (grayRoundCount c) :=
  (isGrayRun_of_code c).grayRounds_eq (grayRoundCount_lt c).le

/-- R130, the corner cases: the rounds each range of codes takes. -/
theorem grayRoundCount_eq_ite (c : Nibble) :
    grayRoundCount c = if c.toNat < 2 then 0 else if c.toNat < 4 then 1 else if c.toNat < 8 then 2 else 3 := by
  have hc : c.toNat < 2 ^ 4 := c.isLt
  split_ifs with h2 h4 h8
  · exact Nat.log_of_lt h2
  · exact Nat.log_eq_of_pow_le_of_lt_pow (Nat.not_lt.1 h2) h4
  · exact Nat.log_eq_of_pow_le_of_lt_pow (Nat.not_lt.1 h4) h8
  · exact Nat.log_eq_of_pow_le_of_lt_pow (Nat.not_lt.1 h8) hc

/-- Settles O15: the run from the code ends, and the model's loop returns what it leaves. -/
theorem decodeGrayConvertsReflectedBinary : Obligations.DecodeGrayConvertsReflectedBinary := by
  intro s c hc
  obtain ⟨hround, hend⟩ := isGrayRun_of_code c
  refine ⟨_, decodeWith_eq grayIndex hc, rfl, rfl, goto_mstep _ _, grayRoundCount c, grayPartial c, fun r => c >>> (r + 1),
    rfl, rfl, hround, hend, ?_, grayRoundCount_eq_ite c⟩
  exact congrArg some (grayIndex_eq_grayPartial c)

end Sys2Proof.Machine
end

section
/-!
PROOF. The lookup decoders (R140, R142) as functions that follow a table with a fallback, and the decoder of each position type (R145).
-/

namespace Sys2Proof.Machine

/-! ### The tables -/

/-- R140: the codes of the 8-position table, each with its index. -/
def lut8Table : List (Nibble × Nibble) :=
  [(0x0, 0), (0x4, 1), (0xC, 2), (0xE, 3), (0x6, 4), (0x7, 5), (0x3, 6), (0x2, 7)]

/-- R142: the codes of the 12-position table, each with its index. -/
def lut12Table : List (Nibble × Nibble) :=
  [(0x0, 0), (0x8, 1), (0xC, 2), (0x4, 3), (0x6, 4), (0xE, 5), (0xA, 6), (0x2, 7), (0x3, 8), (0xB, 9), (0x9, 10), (0x1, 11)]

/-- R144: `f` gives each code of the table its index, and 0 to every other code. -/
def FollowsTable (f : Nibble → Nibble) (table : List (Nibble × Nibble)) : Prop :=
  (∀ e ∈ table, f e.1 = e.2) ∧ ∀ c, c ∉ table.map Prod.fst → f c = 0

theorem lut8Index_followsTable : FollowsTable lut8Index lut8Table := by
  refine ⟨?_, fun c hc => ?_⟩
  · simp [lut8Table, lut8Index]
  · simp only [lut8Table, List.map, List.mem_cons, not_or] at hc
    simp only [lut8Index, hc, if_false]

theorem lut12Index_followsTable : FollowsTable lut12Index lut12Table := by
  refine ⟨?_, fun c hc => ?_⟩
  · simp [lut12Table, lut12Index]
  · simp only [lut12Table, List.map, List.mem_cons, not_or] at hc
    simp only [lut12Index, hc, if_false]

/-- A decoder that follows a table: the index it hands to COMPARE_COMMIT, and the block as it was. -/
theorem decodeWith_of_followsTable {f : Nibble → Nibble} {table : List (Nibble × Nibble)} {s : State} {c : Nibble}
    (hf : FollowsTable f table) (hc : s.code = some c) :
    ∃ t x, decodeWith f s = .next t ∧ t.block = s.block ∧ t.responses = s.responses ∧ t.mstep = 0xB ∧ t.idx = some x ∧
      (∀ e ∈ table, c = e.1 → x = e.2) ∧ (c ∉ table.map Prod.fst → x = 0) := by
  obtain ⟨hlisted, hother⟩ := hf
  refine ⟨_, f c, decodeWith_eq f hc, rfl, rfl, goto_mstep _ _, rfl, fun e he hce => ?_, hother c⟩
  rw [hce, hlisted e he]

/-- Settles O19: the model's function follows the rule's table. -/
theorem decodeLut8FollowsTable : Obligations.DecodeLut8FollowsTable :=
  fun _ _ hc => decodeWith_of_followsTable lut8Index_followsTable hc

/-- Settles O20: the model's function follows the rule's table. -/
theorem decodeLut12FollowsTable : Obligations.DecodeLut12FollowsTable :=
  fun _ _ hc => decodeWith_of_followsTable lut12Index_followsTable hc

/-! ### The decoder of a position type -/

/-- R85, R145: the micro-step a legal type selects names an instruction, which decodes by that type. -/
theorem exists_decoder_of_legal {ty : Nat} (h : ty = 0x08 ∨ ty = 0x0C ∨ ty = 0x10) :
    ∃ id d, decoderFor ty = some id ∧ (∀ ps, decode ps (.micro id) = .ok d) ∧ ∀ s, exec d s = decodeWith (indexOf ty) s := by
  rcases h with rfl | rfl | rfl
  · exact ⟨0x9, .decodeLut8, rfl, fun _ => rfl, fun _ => rfl⟩
  · exact ⟨0xA, .decodeLut12, rfl, fun _ => rfl, fun _ => rfl⟩
  · exact ⟨0x8, .decodeGray, rfl, fun _ => rfl, fun _ => rfl⟩

/-- Settles O21: SPLIT leaves the switch's code and the micro-step of its type, whose instruction decodes that code by that type. -/
theorem dispatchDecodesByPositionType : Obligations.DispatchDecodesByPositionType := by
  intro s i b ty hi hb ht hlegal
  obtain ⟨id, d, hid, hd, hexec⟩ := exists_decoder_of_legal hlegal
  have hsplit := (execSplit_eq hi hb ht).trans (gotoDecoder_of_decoderFor _ hid)
  have hdecode := (hexec _).trans (decodeWith_eq (s := { s with code := some (codeOf b i) }.goto id) (indexOf ty) rfl)
  refine ⟨_, d, _, hsplit, hd _, hdecode, rfl, goto_mstep _ _, ?_, ?_, ?_⟩ <;> rintro rfl <;> rfl

end Sys2Proof.Machine
end

section
/-!
PROOF. The micro-steps of the state buffer (R161, R163, R164): what a commit does to CUR, PREV and CHG, and each micro-step's next state
when the elements it reads hold values.
-/

namespace Sys2Proof.Machine

/-! ### The comparison with the snapshot (R163, R166) -/

theorem entryChanged_eq_false_iff (new old : Nat) : entryChanged new old = false ↔ new = old :=
  bne_eq_false_iff_eq

theorem chgAfter_entryChanged (new old : Nat) (chg : Option Bit) :
    chgAfter (entryChanged new old) chg = if new = old then chg else some true := by
  simp only [chgAfter, entryChanged, bne_iff_ne, ite_not]

@[simp] theorem prevAfter_length (changed : Bool) (prev : List (Option Nat)) (i new : Nat) :
    (prevAfter changed prev i new).length = prev.length := by
  cases changed
  · rfl
  · exact setEntry_length prev i new

/-- R163: the snapshot's entry ends equal to the new one, also when it is not written because it already was. -/
theorem entryAt_prevAfter {prev : List (Option Nat)} {i old : Nat} (hold : entryAt prev i = some old) (new m : Nat) :
    entryAt (prevAfter (entryChanged new old) prev i new) m = if m = i then some new else entryAt prev m := by
  cases hc : entryChanged new old with
  | true => exact entryAt_setEntry (entryAt_lt hold) new m
  | false =>
    have heq : new = old := (entryChanged_eq_false_iff new old).1 hc
    split_ifs with hm
    · rw [hm, heq]; exact hold
    · rfl

/-! ### The commit of one switch (R163) -/

section
variable (s : State) (i new old : Nat)

theorem commit_block :
    (s.commit i new old).block =
      { s.block with
        cur := (s.commit i new old).cur
        prev := (s.commit i new old).prev
        chg := if new = old then s.chg else some true } := by
  rw [← chgAfter_entryChanged]; rfl

theorem commit_chg_of_ne (h : new ≠ old) : (s.commit i new old).chg = some true :=
  (chgAfter_entryChanged new old s.chg).trans (if_neg h)

@[simp] theorem commit_cur_length : (s.commit i new old).cur.length = s.cur.length := setEntry_length _ _ _

@[simp] theorem commit_prev_length : (s.commit i new old).prev.length = s.prev.length := prevAfter_length _ _ _ _

end

/-- R166: the index of a switch never decoded before always counts as a change. -/
theorem commit_chg_of_sentinel {s : State} (hlegal : s.params.Legal) (i : Nat) (x : Nibble) {old : Nat}
    (hold : old = s.params.sentinel) : (s.commit i (storedIndex s.params x) old).chg = some true :=
  commit_chg_of_ne s i _ old (hold ▸ storedIndex_ne_sentinel hlegal x)

/-! ### The next state of each micro-step -/

section
variable {s : State} {x : Nibble} {i old : Nat} {n : Byte}

/-- R163, before the last switch. -/
theorem execCompareCommit_of_lt (hx : s.idx = some x) (hi : s.i = some i) (hold : entryAt s.prev i = some old)
    (hn : s.count = some n) (h : i + 1 < n.toNat) :
    execCompareCommit s =
      .next ({ s.commit i (storedIndex s.params x) old with i := some (i + 1), phase := .decoding }.goto 0x7) := by
  simp only [execCompareCommit, hx, hi, hold, hn, need_some, if_pos h]

/-- R163, at the last switch. -/
theorem execCompareCommit_of_not_lt (hx : s.idx = some x) (hi : s.i = some i) (hold : entryAt s.prev i = some old)
    (hn : s.count = some n) (h : ¬ i + 1 < n.toNat) :
    execCompareCommit s =
      .next ({ s.commit i (storedIndex s.params x) old with phase := .compareAndCommit }.goto 0xC) := by
  simp only [execCompareCommit, hx, hi, hold, hn, need_some, if_neg h]

/-- R164. -/
theorem execPollDone_eq {c : Bit} (hc : s.chg = some c) : execPollDone s = .next (s.endPoll.respond (.changed c)) := by
  rw [execPollDone, hc, need_some]

end

/-! ### The obligations -/

/-- Settles O24: the commit is the same whether or not a switch is still to come; the stored index is the index itself. -/
theorem compareCommitUpdatesEntryAndSnapshot : Obligations.CompareCommitUpdatesEntryAndSnapshot := by
  intro s x i old n hlegal hx hi hlen hold hn
  have hcur := entryAt_setEntry hlen (storedIndex s.params x)
  have hprev := entryAt_prevAfter hold (storedIndex s.params x)
  have hsentinel := commit_chg_of_sentinel hlegal i x (old := old)
  have hblock := commit_block s i (storedIndex s.params x) old
  rw [← storedIndex_eq hlegal x]
  by_cases h : i + 1 < n.toNat
  · simp only [if_pos h]
    refine ⟨_, execCompareCommit_of_lt hx hi hold hn h, ?_, commit_cur_length s i _ old, commit_prev_length s i _ old, hcur, hprev,
      hsentinel, rfl, rfl⟩
    exact congrArg (fun b : Block => { b with i := some (i + 1), phase := .decoding }) hblock
  · simp only [if_neg h]
    rw [← hi]
    refine ⟨_, execCompareCommit_of_not_lt hx hi hold hn h, ?_, commit_cur_length s i _ old, commit_prev_length s i _ old, hcur,
      hprev, hsentinel, rfl, rfl⟩
    exact congrArg (fun b : Block => { b with phase := .compareAndCommit }) hblock

/-- Settles O23: CLEAR_CHG reads no element, so its next state is the one its definition writes. -/
theorem clearChgStartsSwitchLoop : Obligations.ClearChgStartsSwitchLoop :=
  fun _ => ⟨_, rfl, rfl, goto_mstep _ _, goto_responses _ _⟩

/-- Settles O25: with CHG holding a value the poll ends, and RAW is the undefined array of MAX_BYTES entries. -/
theorem pollDoneRespondsWithFlag : Obligations.PollDoneRespondsWithFlag :=
  fun s _ hc =>
    ⟨_, execPollDone_eq hc, rfl, entryAt_undefinedArray s.params.maxBytes, undefinedArray_length _, respond_responses _ _⟩

end Sys2Proof.Machine
end

section
/-!
PROOF. The command words put together from their fields (R71, R84), and the words of the two reads (R188, R189).
-/

namespace Sys2Proof

@[simp] theorem opField_commandWord (arg op : Byte) : opField (commandWord arg op) = op :=
  BitVec.extractLsb'_append_eq_right

@[simp] theorem argField_commandWord (arg op : Byte) : argField (commandWord arg op) = arg :=
  BitVec.extractLsb'_append_eq_left

/-- R188. -/
theorem decode_rdcurWord (ps : Params) (i : Byte) (r : InitRecord) : decode ps (.command ⟨rdcurWord i, r⟩) = .ok (.rdcur i) := by
  have h := decodeCommand_of_rdcur (ps := ps) (p := ⟨rdcurWord i, r⟩) (opField_commandWord i 0x03)
  rwa [rdcurWord, argField_commandWord] at h

/-- R189. -/
theorem decode_rdcntWord (ps : Params) (r : InitRecord) : decode ps (.command ⟨rdcntWord, r⟩) = .ok .rdcnt :=
  (decodeCommand_of_rdcnt (opField_commandWord 0x00 0x04)).trans
    ((withZeroArg_eq_ok_iff _ _ _).2 ⟨argField_commandWord 0x00 0x04, rfl⟩)

end Sys2Proof
end

section
/-!
PROOF. The host commands INIT, RDCUR and RDCNT (R181 to R190): acceptance by phase, why an INIT fails or succeeds and what it leaves,
and each read's answer in Idle.
-/

namespace Sys2Proof.Machine

/-! ### Acceptance by phase (R21, R210) -/

theorem busy_eq_true_iff (p : Phase) :
    p.busy = true ↔ p = .latching ∨ p = .shifting ∨ p = .decoding ∨ p = .compareAndCommit := by
  cases p <;> decide

theorem busy_eq_false_iff (p : Phase) : p.busy = false ↔ p = .idle ∨ p = .unconfigured := by
  cases p <;> decide

theorem whenFree_of_busy {s : State} {c : CmdWord} {go : Result} (h : s.phase.busy = true) :
    whenFree s c go = .next (s.raiseFault .busy c) :=
  if_pos h

theorem whenConfigured_of_busy {s : State} {c : CmdWord} {go : Result} (h : s.phase.busy = true) :
    whenConfigured s c go = .next (s.raiseFault .busy c) :=
  whenFree_of_busy h

theorem whenConfigured_of_unconfigured {s : State} {c : CmdWord} {go : Result} (h : s.phase = .unconfigured) :
    whenConfigured s c go = .next (s.raiseFault .notConfigured c) :=
  (whenFree_of_free ((busy_eq_false_iff _).2 (.inr h))).trans (if_pos h)

/-! ### Why an INIT fails (R181, R183, R184, R211) -/

theorem typeInAt_of_getElem? {r : InitRecord} {i t : Nat} (h : r.typeIn[i]? = some t) : typeInAt r i = t := by
  rw [typeInAt, List.getD_eq_getElem?_getD, h, Option.getD_some]

theorem typesLegal_of_getElem? {ps : Params} {r : InitRecord} {n : Nat}
    (h : ∀ i, i < n → ∃ t, r.typeIn[i]? = some t ∧ t ∈ ps.positionTypes) : typesLegal ps r n = true := by
  refine (typesLegal_iff ps r n).2 fun i hi => ?_
  obtain ⟨t, hget, ht⟩ := h i hi
  rwa [typeInAt_of_getElem? hget]

theorem typesLegal_eq_false_of_getElem? {ps : Params} {r : InitRecord} {n i t : Nat} (hi : i < n) (hget : r.typeIn[i]? = some t)
    (ht : t ∉ ps.positionTypes) : typesLegal ps r n = false := by
  refine Bool.eq_false_iff.2 fun hlegal => ht ?_
  rw [← typeInAt_of_getElem? hget]
  exact (typesLegal_iff ps r n).1 hlegal i hi

section
variable {ps : Params} {ok : Bool} {n : Nat} {r : InitRecord}

theorem initOutcome_of_zero (hn : n = 0) : initOutcome ps ok n r = some .zeroCount := if_pos hn

theorem initOutcome_of_illegal (hn : n ≠ 0) (ht : typesLegal ps r n = false) : initOutcome ps ok n r = some .badType := by
  rw [initOutcome, if_neg hn, if_pos ht]

/-- R184: an allocation that may fail and does. -/
theorem initOutcome_of_allocFailure (hn : n ≠ 0) (ht : typesLegal ps r n = true) (hmay : ps.allocMayFail = true)
    (hok : ok = false) : initOutcome ps ok n r = some .alloc := by
  simp [initOutcome, hn, ht, hmay, hok]

/-- R184: the draw is ignored where an allocation cannot fail. -/
theorem initOutcome_of_valid (hn : n ≠ 0) (ht : typesLegal ps r n = true) (halloc : ps.allocMayFail = false ∨ ok = true) :
    initOutcome ps ok n r = none := by
  obtain hmay | hok := halloc
  · simp [initOutcome, hn, ht, hmay]
  · simp [initOutcome, hn, ht, hok]

end

section
variable {s : State} {r : InitRecord}

/-- R181, R186. -/
theorem execInit_of_failure {q : InitFailure} (hfree : s.phase.busy = false)
    (h : initOutcome s.params s.allocDraw (normalise s.params r.countIn) r = some q) :
    execInit r s = .next (s.allocDrawn.initFail q) := by
  rw [execInit, whenFree_of_free hfree]
  simp [State.runInit, h]

/-- R181, R185. -/
theorem execInit_of_success (hfree : s.phase.busy = false)
    (h : initOutcome s.params s.allocDraw (normalise s.params r.countIn) r = none) :
    execInit r s = .next (s.allocDrawn.initSucceed (normalise s.params r.countIn) r) := by
  rw [execInit, whenFree_of_free hfree]
  simp [State.runInit, h]

end

/-! ### What an INIT leaves (R185, R186, R190) -/

theorem initSucceed_shapeInv {s : State} (h : s.params.Legal) (n : Nat) (r : InitRecord) : (s.initSucceed n r).ShapeInv := by
  rw [initSucceed_eq]
  exact ⟨h, filledBelow_length _ _ _, undefinedArray_length _, filledBelow_length _ _ _, undefinedArray_length _⟩

theorem initFail_shapeInv {s : State} (h : s.params.Legal) (q : InitFailure) : (s.initFail q).ShapeInv :=
  ⟨h, undefinedArray_length _, undefinedArray_length _, undefinedArray_length _, undefinedArray_length _⟩

/-- R22: COUNT holds a normalised count. -/
theorem toNat_ofNat_normalise {ps : Params} (h : ps.Legal) (c : Nat) : (BitVec.ofNat 8 (normalise ps c)).toNat = normalise ps c := by
  have hle := normalise_le ps c
  have hfits := h.ceilingFits
  rw [BitVec.toNat_ofNat, Nat.mod_eq_of_lt (by omega)]

/-- R185: below the count, TYPE holds the record's types. -/
theorem entryAt_filledBelow_typeInAt {r : InitRecord} {len n i t : Nat} (hi : i < n) (hle : n ≤ len) (hget : r.typeIn[i]? = some t) :
    entryAt (filledBelow len n (typeInAt r)) i = r.typeIn[i]? := by
  rw [filledBelow_below _ hi hle, typeInAt_of_getElem? hget, hget]

/-- R190: in the order of the events, the inhibit line's configuration and its idle level stand where there is such a line. -/
theorem append_initEvents (hist : List Event) (hasInh inhActive : Bit) :
    hist ++ initEvents hasInh inhActive = hist ++ [.configOut .latchO, .configOut .clkO] ++
      (if hasInh then [.configOut .inhO] else []) ++ [.configIn, .drive .latchO true, .drive .clkO false] ++
      (if hasInh then [.drive .inhO (!inhActive)] else []) := by
  cases hasInh <;> simp [initEvents]

/-! ### The reads (R188, R189) -/

section
variable {s : State} {i n : Byte}

/-- R188: in Idle, RDCUR of a switch whose entry holds no value. -/
theorem execRdcur_of_unwritten (hp : s.phase = .idle) (hn : s.count = some n) (hi : i.toNat < n.toNat)
    (hv : entryAt s.cur i.toNat = none) : execRdcur i s = .next (s.raiseFault .unwrittenRead (rdcurWord i)) := by
  rw [execRdcur, whenConfigured_idle hp, hn, need_some, if_neg (Nat.not_le.2 hi)]
  simp only [hv]

/-- R188: in Idle, RDCUR of a switch that has been decoded. -/
theorem execRdcur_of_written {v : Nat} (hp : s.phase = .idle) (hn : s.count = some n) (hi : i.toNat < n.toNat)
    (hv : entryAt s.cur i.toNat = some v) : execRdcur i s = .next (s.respond (.cur v)) := by
  rw [execRdcur, whenConfigured_idle hp, hn, need_some, if_neg (Nat.not_le.2 hi)]
  simp only [hv]

/-- R189: in Idle. -/
theorem execRdcnt_of_count (hp : s.phase = .idle) (hn : s.count = some n) : execRdcnt s = .next (s.respond (.count n)) := by
  rw [execRdcnt, whenConfigured_idle hp, hn, need_some]

end

theorem switches_of_count {s : State} {n : Byte} (h : s.count = some n) : s.switches = n.toNat := by
  simp only [State.switches, h]

theorem positionType_le {ps : Params} (h : ps.Legal) {t : Nat} (ht : t ∈ ps.positionTypes) : t ≤ 0x10 := by
  obtain ⟨htypes, -⟩ := h.typesDecoded t ht
  omega

/-- R25, R81: a decoded entry below COUNT is an index of its switch's type, which has at most 16 positions. -/
theorem curEntry_le {s : State} (h : s.Inv) {i v : Nat} (hi : i < s.switches) (hv : entryAt s.cur i = some v) : v ≤ 0x0F := by
  obtain ⟨t, htype, ht⟩ := h.config.typeBelow i hi
  have hlt := h.buffer.indexRange i v t hv htype
  have hle := positionType_le h.shape.legal ht
  omega

/-! ### The obligations -/

/-- Settles O26: the definition of `normalise`, at any parameters and at the defaults. -/
theorem countNormalisation : Obligations.CountNormalisation :=
  ⟨fun _ _ => rfl, fun _ => rfl, by decide⟩

/-- Settles O28: no reason of failure applies, so INIT leaves what `initSucceed_eq` lists. -/
theorem initConfiguresBlock : Obligations.InitConfiguresBlock := by
  intro s r n hlegal hphase hn hpos htypes halloc
  have hfree : s.phase.busy = false := (busy_eq_false_iff _).2 hphase
  have hout : initOutcome s.params s.allocDraw n r = none := initOutcome_of_valid hpos (typesLegal_of_getElem? htypes) halloc
  have hle : n ≤ s.params.maxCount := hn ▸ normalise_le s.params r.countIn
  have hcount : (BitVec.ofNat 8 n).toNat = n := hn ▸ toNat_ofNat_normalise hlegal r.countIn
  have hbelow (i : Nat) (hi : i < n) : entryAt (filledBelow s.params.maxCount n (typeInAt r)) i = r.typeIn[i]? := by
    obtain ⟨t, hget, -⟩ := htypes i hi
    exact entryAt_filledBelow_typeInAt hi hle hget
  have hshape := initSucceed_shapeInv (s := s.allocDrawn) hlegal n r
  have hexec : exec (.init r) s = .next (s.allocDrawn.initSucceed n r) := by
    subst hn
    exact execInit_of_success hfree hout
  rw [initSucceed_eq] at hexec hshape
  exact ⟨_, hexec, congrArg some hcount, rfl, rfl, fun i hi => ⟨hbelow i hi, filledBelow_below _ hi hle⟩,
    fun i hi => ⟨filledBelow_above _ hi, filledBelow_above _ hi⟩, entryAt_undefinedArray _, entryAt_undefinedArray _, hshape,
    accUndefined_getElem, rfl, rfl, rfl, rfl, rfl, rfl, rfl, rfl, append_initEvents s.hist r.hasInhIn s.params.inhActive, rfl⟩

/-- Settles O29: each clause is the reason `initOutcome` gives, and every failed INIT leaves what `initFail_eq` lists. -/
theorem initFailureDiscardsEverything : Obligations.InitFailureDiscardsEverything := by
  intro s r n q hlegal hphase hn _ hwhy
  have hfree : s.phase.busy = false := (busy_eq_false_iff _).2 hphase
  have hout : initOutcome s.params s.allocDraw n r = some q := by
    obtain ⟨hzero, rfl⟩ | ⟨hpos, ⟨i, t, hi, hget, ht⟩, rfl⟩ | ⟨hpos, htypes, hmay, hdraw, rfl⟩ := hwhy
    · exact initOutcome_of_zero hzero
    · exact initOutcome_of_illegal hpos (typesLegal_eq_false_of_getElem? hi hget ht)
    · exact initOutcome_of_allocFailure hpos (typesLegal_of_getElem? htypes) hmay hdraw
  subst hn
  have hentry (i : Nat) : entryAt (undefinedArray s.params.maxCount : List (Option Nat)) i = none := entryAt_undefinedArray _ i
  exact ⟨_, execInit_of_failure hfree hout, rfl, rfl, rfl, fun i => ⟨hentry i, hentry i, hentry i⟩, entryAt_undefinedArray _,
    initFail_shapeInv (s := s.allocDrawn) hlegal q, accUndefined_getElem, rfl, rfl, rfl, rfl, rfl, rfl, rfl, rfl, rfl, rfl, rfl⟩

/-- Settles O31: one law per clause of R188; the bound on the entry is the invariant's. -/
theorem rdcurReturnsCurrentEntry : Obligations.RdcurReturnsCurrentEntry := by
  refine ⟨decode_rdcurWord, fun s i hp => ?_, fun s i hp => ?_, fun s i n hp hn hi => ?_, fun s i n hp hn hi hv => ?_,
    fun s i n v hp hn hi hv => ⟨?_, fun hinv => ?_⟩⟩
  · exact whenConfigured_of_busy ((busy_eq_true_iff _).2 hp)
  · exact whenConfigured_of_unconfigured hp
  · exact execRdcur_of_count_le hp hn hi
  · exact execRdcur_of_unwritten hp hn hi hv
  · exact execRdcur_of_written hp hn hi hv
  · exact curEntry_le hinv (switches_of_count hn ▸ hi) hv

/-- Settles O32: one law per clause of R189; the range of COUNT is the invariant's. -/
theorem rdcntReturnsEffectiveCount : Obligations.RdcntReturnsEffectiveCount := by
  refine ⟨decode_rdcntWord, fun s w r hop harg => ?_, fun s hp => ?_, fun s hp => ?_, fun s n hp hn => ⟨?_, fun hinv => ?_⟩⟩
  · exact runCode_of_nonzeroArg s r (.inr (.inr ((opField_eq_iff w 0x04).2 hop))) (mt (argField_eq_iff w 0x00).1 harg)
  · exact whenConfigured_of_busy ((busy_eq_true_iff _).2 hp)
  · exact whenConfigured_of_unconfigured hp
  · exact execRdcnt_of_count hp hn
  · obtain ⟨hlow, hhigh, heven⟩ := hinv.config.countRange n hn
    exact ⟨heven, hlow, hhigh⟩

end Sys2Proof.Machine
end

section
/-!
PROOF. The command words that name a command (R72 to R74), and the word each command is encoded as.
-/

namespace Sys2Proof

theorem commandWord_fields (w : CmdWord) : commandWord (argField w) (opField w) = w :=
  (BitVec.extractLsb'_append_extractLsb'_eq_extractLsb' (by decide)).trans BitVec.extractLsb'_eq_self

theorem eq_commandWord {w : CmdWord} {arg op : Byte} (harg : argField w = arg) (hop : opField w = op) : w = commandWord arg op := by
  rw [← harg, ← hop, commandWord_fields]

/-- R188: a word with RDCUR's OP is the word of RDCUR of its ARG. -/
theorem rdcurWord_argField {w : CmdWord} (hop : opField w = 0x03) : rdcurWord (argField w) = w :=
  (eq_commandWord rfl hop).symm

/-- R72, R74: OP is one of the four opcodes, and ARG is 0x00 where the opcode takes no operand. -/
def NamesCommand (w : CmdWord) : Prop :=
  opField w = 0x03 ∨ ((opField w = 0x01 ∨ opField w = 0x02 ∨ opField w = 0x04) ∧ argField w = 0x00)

theorem namesCommand_iff (w : CmdWord) :
    NamesCommand w ↔
      w.toNat % 256 = 3 ∨ ((w.toNat % 256 = 1 ∨ w.toNat % 256 = 2 ∨ w.toNat % 256 = 4) ∧ w.toNat / 256 = 0) := by
  simp only [NamesCommand, opField_eq_iff, argField_eq_iff]
  rfl

/-- R72, R75: beside a record of R75's form, a word that names a command is decoded to the command encoded as that word. -/
theorem decodeCommand_of_namesCommand {ps : Params} {p : Presented} (h : NamesCommand p.word) (hr : p.record.wellFormed ps = true) :
    ∃ i q, decodeCommand ps p = .ok i ∧ encode i = .command ⟨p.word, q⟩ := by
  obtain hop | ⟨hop | hop | hop, harg⟩ := h
  · exact ⟨_, _, decodeCommand_of_rdcur hop, by rw [encode, rdcurWord_argField hop]⟩
  all_goals rw [eq_commandWord harg hop]
  · refine ⟨.init p.record, p.record, ?_, rfl⟩
    rw [decodeCommand_of_init hop, (withZeroArg_eq_ok_iff _ _ _).2 ⟨harg, rfl⟩]
    exact (withRecord_eq_ok_iff _ _ _).2 ⟨hr, rfl⟩
  · exact ⟨.poll, _, (decodeCommand_of_poll hop).trans ((withZeroArg_eq_ok_iff _ _ _).2 ⟨harg, rfl⟩), rfl⟩
  · exact ⟨.rdcnt, _, (decodeCommand_of_rdcnt hop).trans ((withZeroArg_eq_ok_iff _ _ _).2 ⟨harg, rfl⟩), rfl⟩

end Sys2Proof
end

section
/-!
PROOF. The acceptance checks of R210 in their order, and the stop of a faulted state (R212, R213).
-/

namespace Sys2Proof.Machine

/-! ### A faulted state (R212) -/

theorem unlessFaulted_some {s : State} {t : Turn} {f : FaultRecord} (h : s.fault = some f) : s.unlessFaulted t = .halted f := by
  simp only [State.unlessFaulted, h]

/-- R212, R213: short of power-on reset a faulted state takes no turn. -/
theorem fetch_of_fault {s : State} {f : FaultRecord} (hf : s.fault = some f) (hp : ∀ rest, s.host ≠ .powerOn :: rest) :
    fetch s = .halted f := by
  unfold fetch
  split
  case h_1 rest hhost => exact absurd hhost (hp rest)
  all_goals exact unlessFaulted_some hf

theorem step_of_fault {s : State} {f : FaultRecord} (hf : s.fault = some f) (hp : ∀ rest, s.host ≠ .powerOn :: rest) :
    step s = .fault (.halted f.kind f.cmd) := by
  rw [step, fetch_of_fault hf hp]

/-! ### The checks on a command word (R210) -/

section
variable {s : State} {w : CmdWord} {r : InitRecord}

/-- Check 1: OP is reserved (R73), or ARG is not 0x00 beside an opcode that takes none (R74). -/
theorem runCode_of_not_namesCommand (h : ¬ NamesCommand w) :
    runCode (.command ⟨w, r⟩) s = .next (s.raiseFault .reservedOp w) := by
  obtain ⟨h3, hzero⟩ := not_or.1 h
  by_cases hop : opField w = 0x01 ∨ opField w = 0x02 ∨ opField w = 0x04
  · exact runCode_of_nonzeroArg s r hop fun harg => hzero ⟨hop, harg⟩
  · obtain ⟨h1, h2, h4⟩ : opField w ≠ 0x01 ∧ opField w ≠ 0x02 ∧ opField w ≠ 0x04 := by simpa only [not_or] using hop
    have hd : decode s.params (.command ⟨w, r⟩) = .error (.reservedOp w) := decodeCommand_of_reserved h1 h2 h3 h4
    exact runCode_error s hd

/-- Past check 1 the word runs the command it is the encoding of. -/
theorem runCode_of_namesCommand (h : NamesCommand w) (hr : r.wellFormed s.params = true) :
    ∃ i q, runCode (.command ⟨w, r⟩) s = exec i s ∧ encode i = .command ⟨w, q⟩ := by
  obtain ⟨i, q, hd, he⟩ := decodeCommand_of_namesCommand (p := ⟨w, r⟩) h hr
  exact ⟨i, q, runCode_ok s hd, he⟩

theorem runCode_of_rdcur (h : opField w = 0x03) : runCode (.command ⟨w, r⟩) s = execRdcur (argField w) s :=
  have hd : decode s.params (.command ⟨w, r⟩) = .ok (.rdcur (argField w)) := decodeCommand_of_rdcur h
  runCode_ok s hd

/-- Check 2: every host command is refused by F_BUSY while a poll is in progress (R203). -/
theorem exec_of_busy {i : Instr} (he : encode i = .command ⟨w, r⟩) (hb : s.phase.busy = true) :
    exec i s = .next (s.raiseFault .busy w) := by
  cases i <;> cases he
  case init => exact whenFree_of_busy hb
  case poll | rdcur | rdcnt => exact whenConfigured_of_busy hb

/-- Check 3: only INIT is accepted in Unconfigured (R204). -/
theorem exec_of_unconfigured {i : Instr} (he : encode i = .command ⟨w, r⟩) (hp : s.phase = .unconfigured)
    (hop : opField w ≠ 0x01) : exec i s = .next (s.raiseFault .notConfigured w) := by
  cases i <;> cases he
  case init => exact absurd (opField_commandWord 0x00 0x01) hop
  case poll | rdcur | rdcnt => exact whenConfigured_of_unconfigured hp

end

/-- Settles O35: the stop of a faulted state, then one law per check; checks 4 and 5 are RDCUR's own in Idle. -/
theorem acceptanceChecksInOrder : Obligations.AcceptanceChecksInOrder := by
  refine ⟨fun s t f hf hp hstep => ?_, ?_⟩
  · cases (step_of_fault hf hp).symm.trans hstep
  rintro s w r _ _ hr rfl rfl
  simp only [← namesCommand_iff, ← busy_eq_true_iff]
  refine ⟨runCode_of_not_namesCommand, fun hw hb => ?_, fun hw hp hop => ?_, fun n hp hn hop hi => ?_, fun n hp hn hop hi hv => ?_⟩
  · obtain ⟨i, q, hrun, he⟩ := runCode_of_namesCommand hw hr
    exact hrun.trans (exec_of_busy he hb)
  · obtain ⟨i, q, hrun, he⟩ := runCode_of_namesCommand hw hr
    exact hrun.trans (exec_of_unconfigured he hp (mt (opField_eq_iff w 0x01).1 hop))
  · have hop : opField w = 0x03 := (opField_eq_iff w 0x03).2 hop
    rw [← argField_toNat] at hi
    rw [runCode_of_rdcur hop, execRdcur_of_count_le hp hn hi, rdcurWord_argField hop, State.raiseFault]
  · have hop : opField w = 0x03 := (opField_eq_iff w 0x03).2 hop
    rw [← argField_toNat] at hi hv
    rw [runCode_of_rdcur hop, execRdcur_of_unwritten hp hn hi hv, rdcurWord_argField hop, State.raiseFault]

end Sys2Proof.Machine
end

section
/-!
PROOF. Power-on reset (R230): the arrays it leaves at the machine's parameters, and the table at the defaults of R7.
-/

namespace Sys2Proof.Machine

/-- R230: every array of the block is as long as the parameters say, and no entry holds a value. -/
theorem resetWith_arrays (ps : Params) :
    (State.resetWith ps).type = undefinedArray ps.maxCount ∧ (State.resetWith ps).cur = undefinedArray ps.maxCount ∧
    (State.resetWith ps).prev = undefinedArray ps.maxCount ∧ (State.resetWith ps).raw = undefinedArray ps.maxBytes :=
  ⟨rfl, rfl, rfl, rfl⟩

/-- R230: no bit of ACC holds a value. -/
theorem resetWith_acc_getElem (ps : Params) (b : Fin 8) : (State.resetWith ps).acc[b] = none :=
  accUndefined_getElem b

/-- Settles O39: the arrays and ACC by their laws at the default parameters; every other element is a field of the reset state. -/
theorem resetValues : Obligations.ResetValues := by
  unfold Obligations.ResetValues
  obtain ⟨htype, hcur, hprev, hraw⟩ := resetWith_arrays {}
  exact ⟨rfl, rfl, rfl, htype, hcur, hprev, hraw, resetWith_acc_getElem {}, rfl, rfl, rfl, rfl, rfl, rfl, rfl, rfl, rfl⟩

end Sys2Proof.Machine
end

section
/-!
PROOF. The decoder and the encoder (R72, R85): each reads back what the other writes, and a few words of every family as the tables
name them.
-/

namespace Sys2Proof

/-- R74: a word of a command without an operand, whose ARG is 0x00. -/
theorem withZeroArg_commandWord (op : Byte) (i : Instr) : withZeroArg (commandWord 0x00 op) i = .ok i :=
  (withZeroArg_eq_ok_iff _ _ _).2 ⟨argField_commandWord 0x00 op, rfl⟩

/-- R75: the word of INIT is decoded beside a record of R75's form. -/
theorem decode_initWord {ps : Params} {r : InitRecord} (h : r.wellFormed ps = true) :
    decode ps (.command ⟨initWord, r⟩) = .ok (.init r) := by
  refine (decodeCommand_of_init (opField_commandWord 0x00 0x01)).trans ?_
  rw [initWord, withZeroArg_commandWord]
  exact (withRecord_eq_ok_iff ps r _).2 ⟨h, rfl⟩

/-- R187. -/
theorem decode_pollWord (ps : Params) (r : InitRecord) : decode ps (.command ⟨pollWord, r⟩) = .ok .poll :=
  (decodeCommand_of_poll (opField_commandWord 0x00 0x02)).trans (withZeroArg_commandWord 0x02 .poll)

/-- Settles O3: one law per command word, and for a micro-step the decoder's table at the id the encoder gives. -/
theorem everyInstructionReadBackFromItsCode : Obligations.EveryInstructionReadBackFromItsCode := by
  intro ps i h
  cases i
  case init r => exact decode_initWord h
  case poll => exact decode_pollWord ps .empty
  case rdcur i => exact decode_rdcurWord ps i .empty
  case rdcnt => exact decode_rdcntWord ps .empty
  all_goals rfl

/-- R85: what is encoded as a micro-step id is no command. -/
theorem hostIssuable_eq_false_of_encode {i : Instr} {id : Nibble} (h : encode i = .micro id) : i.hostIssuable = false := by
  cases i
  case init | poll | rdcur | rdcnt => cases h
  all_goals rfl

theorem hostIssuable_of_encode {i : Instr} {p : Presented} (h : encode i = .command p) : i.hostIssuable = true := by
  cases i
  case init | poll | rdcur | rdcnt => rfl
  all_goals cases h

/-- R85: an id that is 0x1 to 0xC is the code of a micro-step, and the decoder answers that one. -/
theorem decodeMicro_ok {id : Nibble} {i : Instr} (h : decodeMicro id = .ok i) : encode i = .micro id ∧ i.hostIssuable = false := by
  have table : ∀ d : Nibble, (decodeMicro d).toOption.all fun j => encode j = .micro d ∧ j.hostIssuable = false := by decide
  have hid := table id
  rw [h] at hid
  simpa [Except.toOption] using hid

/-- R85: the ids 0x1 to 0xC each name a micro-step. -/
theorem exists_decodeMicro {id : Nibble} (h0 : id ≠ 0x0) (h : id.toNat ≤ 0xC) : ∃ i, decodeMicro id = .ok i := by
  have table : ∀ d : Nibble, d ≠ 0x0 → d.toNat ≤ 0xC → (decodeMicro d).isOk := by decide
  have hid := table id h0 h
  cases hd : decodeMicro id with
  | ok i => exact ⟨i, rfl⟩
  | error err => rw [hd] at hid; cases hid

/-- R75: only INIT has an operand whose form can be wrong. -/
theorem wellFormed_of_not_hostIssuable {i : Instr} (h : i.hostIssuable = false) (ps : Params) : i.wellFormed ps = true := by
  cases i
  case init | poll | rdcur | rdcnt => cases h
  all_goals rfl

/-- Settles O4: the four words of `decodeCommand_ok` are those the encoder writes; a micro-step id is looked up in the table. -/
theorem acceptedCodeIsTheInstructionsCode : Obligations.AcceptedCodeIsTheInstructionsCode := by
  refine fun ps => ⟨fun w r i h => ?_, fun id i h => ?_⟩
  · obtain ⟨hop, harg, hwf, rfl⟩ | ⟨hop, harg, rfl⟩ | ⟨hop, rfl⟩ | ⟨hop, harg, rfl⟩ := decodeCommand_ok (p := ⟨w, r⟩) h
    · obtain rfl : w = initWord := eq_commandWord harg hop
      exact ⟨hwf, rfl, r, rfl, fun _ hx => (Instr.init.inj hx).symm⟩
    · obtain rfl : w = pollWord := eq_commandWord harg hop
      exact ⟨rfl, rfl, .empty, rfl, nofun⟩
    · exact ⟨rfl, rfl, .empty, by rw [encode, rdcurWord_argField hop], nofun⟩
    · obtain rfl : w = rdcntWord := eq_commandWord harg hop
      exact ⟨rfl, rfl, .empty, rfl, nofun⟩
  · obtain ⟨hcode, hissuer⟩ := decodeMicro_ok h
    exact ⟨wellFormed_of_not_hostIssuable hissuer ps, hissuer, hcode⟩

theorem wellFormed_iff (ps : Params) (r : InitRecord) :
    r.wellFormed ps = true ↔
      r.typeIn.length = ps.maxCount ∧ r.countIn < 2 ^ ps.countInWidth ∧ ∀ t ∈ r.typeIn, t < 2 ^ ps.typeWidth := by
  simp [InitRecord.wellFormed, and_assoc]

/-- Settles O2: the words written out bit by bit are the words of the commands and the ids of the micro-steps. -/
theorem wordsDecodeAsTabulated : Obligations.WordsDecodeAsTabulated := by
  refine fun ps => ⟨fun r hlen hcount htypes => ?_, decode_pollWord ps, decode_rdcurWord ps 3, decode_rdcntWord ps, rfl, rfl, rfl, rfl,
    rfl, rfl⟩
  exact decode_initWord ((wellFormed_iff ps r).2 ⟨hlen, hcount, htypes⟩)

end Sys2Proof
end

section
/-!
PROOF. Everything an instruction can do when it answers a next state, said once: which elements it read, and each element it writes.
-/

namespace Sys2Proof.Machine

/-- The next states of each instruction: a command's fault, or the elements the instruction writes (R100 to R104, R120, R130, R140, R142,
R161 to R164, R181 to R189). -/
inductive Effect (s : State) : Instr → State → Prop
  | fault {i : Instr} {w : CmdWord} {q : InitRecord} (f : FaultKind) (he : encode i = .command ⟨w, q⟩)
      (hinit : ∀ r, i = .init r → s.phase.busy = true) : Effect s i (s.raiseFault f w)
  | initFails (r : InitRecord) (q : InitFailure) (hfree : s.phase.busy = false) : Effect s (.init r) (s.allocDrawn.initFail q)
  | initSucceeds (r : InitRecord) (hfree : s.phase.busy = false) (hpos : 0 < normalise s.params r.countIn)
      (htypes : typesLegal s.params r (normalise s.params r.countIn) = true) :
      Effect s (.init r) (s.allocDrawn.initSucceed (normalise s.params r.countIn) r)
  | poll (hp : s.phase = .idle) : Effect s .poll { s with phase := .latching, mstep := 0x1 }
  | rdcur (i n : Byte) (v : Nat) (hp : s.phase = .idle) (hn : s.count = some n) (hi : i.toNat < n.toNat)
      (hv : entryAt s.cur i.toNat = some v) : Effect s (.rdcur i) { s with responses := s.responses ++ [.cur v] }
  | rdcnt (n : Byte) (hp : s.phase = .idle) (hn : s.count = some n) :
      Effect s .rdcnt { s with responses := s.responses ++ [.count n] }
  | inhAssert (h : Bit) (hh : s.hasInh = some h) :
      Effect s .inhAssert { s with
        inhO := if h then .driven s.params.inhActive else s.inhO
        hist := s.hist ++ (if h then [.drive .inhO s.params.inhActive] else [])
        mstep := 0x2 }
  | latchPulse :
      Effect s .latchPulse { s with
        latchO := .driven true
        hist := s.hist ++ [.drive .latchO false, .settle, .drive .latchO true, .settle]
        mstep := 0x3 }
  | inhRelease (h : Bit) (hh : s.hasInh = some h) :
      Effect s .inhRelease { s with
        inhO := if h then .driven (!s.params.inhActive) else s.inhO
        hist := s.hist ++ (if h then [.drive .inhO (!s.params.inhActive)] else [])
        phase := .shifting, k := some 0, j := some 0, acc := accUndefined, mstep := 0x4 }
  | shiftBit (j : Fin 8) (hj : s.j = some j) :
      Effect s .shiftBit { s with
        acc := s.acc.set (accPlace j).val (some s.serialDraw) (accPlace j).isLt
        j := if j.val < 7 then some (j + 1) else some j
        clkO := .driven false
        hist := s.hist ++ [.sample s.serialDraw, .drive .clkO true, .settle, .drive .clkO false, .settle]
        serial := s.serial.tail
        draws := s.draws + 1
        mstep := if j.val < 7 then 0x4 else 0x5 }
  | storeByte (b n : Byte) (k : Nat) (hb : accByte s.acc = some b) (hk : s.k = some k) (hn : s.count = some n) :
      Effect s .storeByte { s with
        raw := setEntry s.raw k b, acc := accUndefined, j := some 0
        k := if k + 1 < n.toNat / 2 then some (k + 1) else some k
        phase := if k + 1 < n.toNat / 2 then s.phase else .decoding
        mstep := if k + 1 < n.toNat / 2 then 0x4 else 0x6 }
  | clearChg : Effect s .clearChg { s with chg := some false, i := some 0, mstep := 0x7 }
  | split (i t : Nat) (b : Byte) (id : Nibble) (hi : s.i = some i) (hb : entryAt s.raw (pairByte i) = some b)
      (ht : entryAt s.type i = some t) (hid : decoderFor t = some id) :
      Effect s .split { s with code := some (codeOf b i), mstep := id }
  | decodeGray (c : Nibble) (hc : s.code = some c) :
      Effect s .decodeGray { s with idx := some (grayIndex c), code := none, mstep := 0xB }
  | decodeLut8 (c : Nibble) (hc : s.code = some c) :
      Effect s .decodeLut8 { s with idx := some (lut8Index c), code := none, mstep := 0xB }
  | decodeLut12 (c : Nibble) (hc : s.code = some c) :
      Effect s .decodeLut12 { s with idx := some (lut12Index c), code := none, mstep := 0xB }
  | compareCommit (x : Nibble) (i old : Nat) (n : Byte) (hx : s.idx = some x) (hi : s.i = some i)
      (hold : entryAt s.prev i = some old) (hn : s.count = some n) :
      Effect s .compareCommit { s with
        cur := setEntry s.cur i (storedIndex s.params x)
        prev := prevAfter (entryChanged (storedIndex s.params x) old) s.prev i (storedIndex s.params x)
        chg := chgAfter (entryChanged (storedIndex s.params x) old) s.chg
        idx := none
        i := if i + 1 < n.toNat then some (i + 1) else some i
        phase := if i + 1 < n.toNat then .decoding else .compareAndCommit
        mstep := if i + 1 < n.toNat then 0x7 else 0xC }
  | pollDone (c : Bit) (hc : s.chg = some c) :
      Effect s .pollDone { s with
        raw := undefinedArray s.params.maxBytes, phase := .idle, mstep := 0x0
        responses := s.responses ++ [.changed c] }

section
variable {s t : State}

/-- Acceptance: INIT in a busy phase is F_BUSY, otherwise it fails or succeeds (R181, R210). -/
theorem execInit_effect {r : InitRecord} (h : execInit r s = .next t) : Effect s (.init r) t := by
  obtain ⟨hbusy, rfl⟩ | ⟨hfree, hrun⟩ := whenFree_next h
  · exact .fault (i := .init r) .busy rfl fun _ _ => hbusy
  · cases hrun
    obtain ⟨q, hfail⟩ | ⟨hpos, htypes, hok⟩ := runInit_cases s r
    · rw [hfail]; exact .initFails r q hfree
    · rw [hok]; exact .initSucceeds r hfree hpos htypes

/-- Acceptance: a command that needs a configured block faults, or runs in Idle (R210). -/
theorem whenConfigured_effect {i : Instr} {w : CmdWord} {q : InitRecord} {go : Result} (he : encode i = .command ⟨w, q⟩)
    (hinit : ∀ r, i ≠ .init r) (hgo : s.phase = .idle → go = .next t → Effect s i t) (h : whenConfigured s w go = .next t) :
    Effect s i t := by
  obtain ⟨-, rfl⟩ | ⟨-, rfl⟩ | ⟨hp, hrun⟩ := whenConfigured_next h
  · exact .fault .busy he fun r hr => absurd hr (hinit r)
  · exact .fault .notConfigured he fun r hr => absurd hr (hinit r)
  · exact hgo hp hrun

theorem execPoll_effect (h : execPoll s = .next t) : Effect s .poll t := by
  refine whenConfigured_effect (i := .poll) rfl nofun (fun hp hrun => ?_) h
  cases hrun
  exact .poll hp

theorem execRdcur_effect {i : Byte} (h : execRdcur i s = .next t) : Effect s (.rdcur i) t := by
  refine whenConfigured_effect (i := .rdcur i) rfl nofun (fun hp hrun => ?_) h
  obtain ⟨n, hn, hrun⟩ := need_next hrun
  split at hrun
  · cases hrun; exact .fault (i := .rdcur i) .indexRange rfl nofun
  · rename_i hi
    split at hrun
    · cases hrun; exact .fault (i := .rdcur i) .unwrittenRead rfl nofun
    · rename_i v hv; cases hrun; exact .rdcur i n v hp hn (Nat.not_le.1 hi) hv

theorem execRdcnt_effect (h : execRdcnt s = .next t) : Effect s .rdcnt t := by
  refine whenConfigured_effect (i := .rdcnt) rfl nofun (fun hp hrun => ?_) h
  obtain ⟨n, hn, hrun⟩ := need_next hrun
  cases hrun
  exact .rdcnt n hp hn

theorem execInhAssert_effect (h : execInhAssert s = .next t) : Effect s .inhAssert t := by
  obtain ⟨b, hh, hrun⟩ := need_next h
  cases hrun
  rw [driveInhibit_eq]
  exact .inhAssert b hh

theorem execLatchPulse_effect (h : execLatchPulse s = .next t) : Effect s .latchPulse t := by
  cases h
  rw [pulseLatch_eq]
  exact .latchPulse

theorem execInhRelease_effect (h : execInhRelease s = .next t) : Effect s .inhRelease t := by
  obtain ⟨b, hh, hrun⟩ := need_next h
  cases hrun
  rw [driveInhibit_eq]
  exact .inhRelease b hh

theorem execShiftBit_effect (h : execShiftBit s = .next t) : Effect s .shiftBit t := by
  obtain ⟨j, hj, hrun⟩ := need_next h
  have heffect := Effect.shiftBit j hj
  split at hrun <;> rename_i hlt <;> cases hrun <;> simp only [hlt, if_true, if_false] at heffect <;> rw [shiftIn_eq]
  · exact heffect
  · rw [← hj] at heffect; exact heffect

theorem execStoreByte_effect (h : execStoreByte s = .next t) : Effect s .storeByte t := by
  obtain ⟨b, hb, hrun⟩ := need_next h
  obtain ⟨k, hk, hrun⟩ := need_next hrun
  obtain ⟨n, hn, hrun⟩ := need_next hrun
  have heffect := Effect.storeByte b n k hb hk hn
  split at hrun <;> rename_i hlt <;> cases hrun <;> simp only [hlt, if_true, if_false] at heffect
  · exact heffect
  · rw [← hk] at heffect; exact heffect

theorem execSplit_effect (h : execSplit s = .next t) : Effect s .split t := by
  obtain ⟨i, hi, hrun⟩ := need_next h
  obtain ⟨b, hb, hrun⟩ := need_next hrun
  obtain ⟨ty, ht, hrun⟩ := need_next hrun
  obtain ⟨id, hid, rfl⟩ := gotoDecoder_next hrun
  exact .split i ty b id hi hb ht hid

theorem execCompareCommit_effect (h : execCompareCommit s = .next t) : Effect s .compareCommit t := by
  obtain ⟨x, hx, hrun⟩ := need_next h
  obtain ⟨i, hi, hrun⟩ := need_next hrun
  obtain ⟨old, hold, hrun⟩ := need_next hrun
  obtain ⟨n, hn, hrun⟩ := need_next hrun
  have heffect := Effect.compareCommit x i old n hx hi hold hn
  split at hrun <;> rename_i hlt <;> cases hrun <;> simp only [hlt, if_true, if_false] at heffect
  · exact heffect
  · rw [← hi] at heffect; exact heffect

theorem execPollDone_effect (h : execPollDone s = .next t) : Effect s .pollDone t := by
  obtain ⟨c, hc, hrun⟩ := need_next h
  cases hrun
  exact .pollDone c hc

/-- Everything an instruction can do when it answers a next state. -/
theorem exec_effect {i : Instr} (h : exec i s = .next t) : Effect s i t := by
  cases i with
  | init r => exact execInit_effect h
  | poll => exact execPoll_effect h
  | rdcur n => exact execRdcur_effect h
  | rdcnt => exact execRdcnt_effect h
  | inhAssert => exact execInhAssert_effect h
  | latchPulse => exact execLatchPulse_effect h
  | inhRelease => exact execInhRelease_effect h
  | shiftBit => exact execShiftBit_effect h
  | storeByte => exact execStoreByte_effect h
  | clearChg => cases h; exact .clearChg
  | split => exact execSplit_effect h
  | decodeGray => obtain ⟨c, hc, hrun⟩ := need_next h; cases hrun; exact .decodeGray c hc
  | decodeLut8 => obtain ⟨c, hc, hrun⟩ := need_next h; cases hrun; exact .decodeLut8 c hc
  | decodeLut12 => obtain ⟨c, hc, hrun⟩ := need_next h; cases hrun; exact .decodeLut12 c hc
  | compareCommit => exact execCompareCommit_effect h
  | pollDone => exact execPollDone_effect h

end

end Sys2Proof.Machine
end

section
/-!
PROOF. Who writes what (R22 to R36): each statement is read off the next states of the instructions.
-/

namespace Sys2Proof.Machine

/-- Settles O44: no next state but INIT's replaces the configuration. -/
theorem onlyInitWritesConfiguration : Obligations.OnlyInitWritesConfiguration := by
  intro i s t h hinit
  cases exec_effect h
  case initFails r q _ => exact absurd rfl (hinit r)
  case initSucceeds r _ _ _ => exact absurd rfl (hinit r)
  all_goals exact ⟨rfl, rfl, rfl⟩

/-- An entry other than the one written is as before, also when the write is past the array's end. -/
theorem entryAt_setEntry_of_ne {α : Type} (a : List (Option α)) {i m : Nat} (h : i ≠ m) (v : α) :
    entryAt (setEntry a i v) m = entryAt a m := by
  rw [entryAt, setEntry, List.getElem?_set_ne h, entryAt]

/-- R163: a snapshot's entry other than that of the switch compared is as before. -/
theorem entryAt_prevAfter_of_ne (changed : Bool) (prev : List (Option Nat)) {i m : Nat} (h : i ≠ m) (v : Nat) :
    entryAt (prevAfter changed prev i v) m = entryAt prev m := by
  cases changed
  · rfl
  · exact entryAt_setEntry_of_ne prev h v

/-- Settles O45: COMPARE_COMMIT writes the entry of I in both arrays, and no other next state but INIT's has them replaced. -/
theorem onlyInitAndCommitWriteBuffer : Obligations.OnlyInitAndCommitWriteBuffer := by
  intro i s t h hinit
  cases exec_effect h
  case initFails r q _ => exact absurd rfl (hinit r)
  case initSucceeds r _ _ _ => exact absurd rfl (hinit r)
  case compareCommit x i old n hx hi hold hn =>
    refine ⟨fun hne => absurd rfl hne, fun m hm => ?_⟩
    have hne : i ≠ m := fun him => hm (him ▸ hi)
    exact ⟨entryAt_setEntry_of_ne s.cur hne _, entryAt_prevAfter_of_ne _ s.prev hne _⟩
  all_goals exact ⟨fun _ => ⟨rfl, rfl⟩, fun _ _ => ⟨rfl, rfl⟩⟩

/-- R163: a comparison never clears CHG. -/
theorem chgAfter_of_set (changed : Bool) : chgAfter changed (some true) = some true := by
  cases changed <;> rfl

/-- Settles O46: of the next states left, only COMPARE_COMMIT's replaces CHG, by `chgAfter`. -/
theorem changeFlagWriters : Obligations.ChangeFlagWriters := by
  intro i s t h hinit hclear
  cases exec_effect h
  case initFails r q _ => exact absurd rfl (hinit r)
  case initSucceeds r _ _ _ => exact absurd rfl (hinit r)
  case clearChg => exact absurd rfl hclear
  case compareCommit x i old n hx hi hold hn =>
    refine ⟨fun hne => absurd rfl hne, fun hset => ?_⟩
    rw [hset, chgAfter_of_set]
  all_goals exact ⟨fun _ => rfl, id⟩

/-- Settles O47: where a register is not the instruction's to write, its next state does not replace it. -/
theorem sequencerRegisterWriters : Obligations.SequencerRegisterWriters := by
  intro i s t h hinit
  cases exec_effect h
  case initFails r q _ => exact absurd rfl (hinit r)
  case initSucceeds r _ _ _ => exact absurd rfl (hinit r)
  case inhRelease | shiftBit | storeByte | clearChg | compareCommit | pollDone => simp
  all_goals exact ⟨fun _ _ => rfl, fun _ _ _ => ⟨rfl, rfl⟩, fun _ _ => rfl, fun _ _ => rfl⟩

/-- R190: an INIT without an inhibit line leaves INH_O. -/
theorem initSucceed_inhO_of_none (s : State) (n : Nat) {r : InitRecord} (h : r.hasInhIn = false) : (s.initSucceed n r).inhO = s.inhO := by
  rw [initSucceed_eq]
  simp [h]

/-- Settles O48: where a line is not the instruction's to drive, its next state does not replace it. -/
theorem lineWriters : Obligations.LineWriters := by
  intro i s t h
  cases exec_effect h
  case initFails r q _ => exact ⟨fun _ _ => rfl, fun _ _ => rfl, fun _ _ _ => rfl, fun _ _ => rfl, fun _ _ _ => rfl⟩
  case initSucceeds r _ _ _ =>
    refine ⟨fun hinit => absurd rfl (hinit r), fun hinit => absurd rfl (hinit r), fun hinit => absurd rfl (hinit r),
      fun hinit => absurd rfl (hinit r), fun q hq hnone => ?_⟩
    cases hq
    exact initSucceed_inhO_of_none _ _ hnone
  case inhAssert b hb | inhRelease b hb =>
    refine ⟨fun _ _ => rfl, fun _ _ => rfl, by simp, fun _ hnone => if_neg fun hset => hnone ?_, nofun⟩
    rw [hb, hset]
  case latchPulse | shiftBit => simp
  all_goals exact ⟨fun _ _ => rfl, fun _ _ => rfl, fun _ _ _ => rfl, fun _ _ => rfl, fun _ _ _ => rfl⟩

/-- Settles O49: a next state's HIST is the one before with the instruction's events appended, or the one before. -/
theorem historyOnlyGrows : Obligations.HistoryOnlyGrows := by
  intro i s t h
  cases exec_effect h
  case initSucceeds r _ _ _ =>
    refine ⟨⟨initEvents r.hasInhIn s.params.inhActive, ?_⟩, fun hinit => absurd rfl (hinit r)⟩
    rw [initSucceed_eq]
    rfl
  case inhAssert => exact ⟨⟨_, rfl⟩, fun _ hne => absurd rfl hne⟩
  case latchPulse => exact ⟨⟨_, rfl⟩, fun _ _ hne => absurd rfl hne⟩
  case inhRelease => exact ⟨⟨_, rfl⟩, fun _ _ _ hne => absurd rfl hne⟩
  case shiftBit => exact ⟨⟨_, rfl⟩, fun _ _ _ _ hne => absurd rfl hne⟩
  all_goals exact ⟨⟨[], (List.append_nil _).symm⟩, fun _ _ _ _ _ => rfl⟩

/-- The fields of the model's own after an INIT that was not turned away busy (logs 4, 9, 10 and 11): all but the reason and the response
are those of the draw. -/
theorem initFail_ownFields (s : State) (q : InitFailure) :
    (s.initFail q).params = s.params ∧ (s.initFail q).host = s.host ∧ (s.initFail q).serial = s.serial ∧
      (s.initFail q).alloc = s.alloc ∧ (s.initFail q).draws = s.draws ∧ (s.initFail q).reason = some q ∧
      (s.initFail q).responses = s.responses ++ [.ok false] := by
  rw [initFail_eq]
  exact ⟨rfl, rfl, rfl, rfl, rfl, rfl, rfl⟩

theorem initSucceed_ownFields (s : State) (n : Nat) (r : InitRecord) :
    (s.initSucceed n r).params = s.params ∧ (s.initSucceed n r).host = s.host ∧ (s.initSucceed n r).serial = s.serial ∧
      (s.initSucceed n r).alloc = s.alloc ∧ (s.initSucceed n r).draws = s.draws ∧ (s.initSucceed n r).reason = none ∧
      (s.initSucceed n r).responses = s.responses ++ [.ok true] := by
  rw [initSucceed_eq]
  exact ⟨rfl, rfl, rfl, rfl, rfl, rfl, rfl⟩

/-- Settles O50: INIT's own fields by the two lemmas, or as before when it is turned away busy; every other next state replaces a field
of the model's own only where the statement lets it. -/
theorem ownFieldsFrame : Obligations.OwnFieldsFrame := by
  intro i s t h
  cases exec_effect h
  case fault w q f he hinit =>
    have hphase (r : InitRecord) (hr : i = .init r) : s.phase ≠ .idle ∧ s.phase ≠ .unconfigured := by
      have hbusy := hinit r hr
      constructor <;> intro hp <;> rw [hp] at hbusy <;> cases hbusy
    have hmicro : i ≠ .shiftBit := fun hi => by cases hi; cases he
    simpa [hmicro] using hphase
  case initFails r q hfree =>
    obtain ⟨hparams, hhost, hserial, halloc, hdraws, hreason, hresponses⟩ := initFail_ownFields s.allocDrawn q
    have hphase := (busy_eq_false_iff _).1 hfree
    simp_all [or_iff_not_imp_left]
  case initSucceeds r hfree _ _ =>
    obtain ⟨hparams, hhost, hserial, halloc, hdraws, hreason, hresponses⟩ :=
      initSucceed_ownFields s.allocDrawn (normalise s.params r.countIn) r
    have hphase := (busy_eq_false_iff _).1 hfree
    simp_all [or_iff_not_imp_left]
  all_goals simp

end Sys2Proof.Machine
end

section
/-!
PROOF. One step of the block by the host's next input (R61, R62, R180, R215, R224, R240), and what a recorded fault does to it (R212, R213).
-/

namespace Sys2Proof.Machine

section
variable {s : State} {p : Presented} {rest : List HostInput}

/-- A command presented now is the next code to run, in every phase (R203). -/
theorem step_present (hf : s.fault = none) (hh : s.host = .present p :: rest) :
    step s = runCode (.command p) { s with host := rest } := by
  simp [step, fetch, hh, unlessFaulted_none hf]

/-- An issued command is the next code to run when the block is free (R240). -/
theorem step_issue_of_free (hf : s.fault = none) (hh : s.host = .issue p :: rest) (hb : s.phase.busy = false) :
    step s = runCode (.command p) { s with host := rest } := by
  simp [step, fetch, hh, unlessFaulted_none hf, hb]

/-- In a busy phase an issued command waits, and the sequencer runs its micro-step (R160, R240). -/
theorem step_issue_of_busy (hf : s.fault = none) (hh : s.host = .issue p :: rest) (hb : s.phase.busy = true) :
    step s = runCode (.micro s.mstep) s := by
  simp [step, fetch, hh, unlessFaulted_none hf, hb, State.ownTurn]

/-- With a silent host the sequencer runs its micro-step in a busy phase (R160). -/
theorem step_silent_of_busy (hf : s.fault = none) (hh : s.host = []) (hb : s.phase.busy = true) :
    step s = runCode (.micro s.mstep) s := by
  simp [step, fetch, hh, unlessFaulted_none hf, hb, State.ownTurn]

/-- A pause is consumed beside the sequencer's micro-step in a busy phase. -/
theorem step_pause_of_busy (hf : s.fault = none) (hh : s.host = .pause :: rest) (hb : s.phase.busy = true) :
    step s = runCode (.micro s.mstep) { s with host := rest } := by
  simp [step, fetch, hh, unlessFaulted_none hf, hb, State.ownTurn]

/-- With a silent host a free block waits (R224, R232). -/
theorem step_silent_of_free (hf : s.fault = none) (hh : s.host = []) (hb : s.phase.busy = false) : step s = .next s := by
  simp [step, fetch, hh, unlessFaulted_none hf, hb, State.ownTurn]

/-- In a free block a pause is consumed and nothing else happens. -/
theorem step_pause_of_free (hf : s.fault = none) (hh : s.host = .pause :: rest) (hb : s.phase.busy = false) :
    step s = .next { s with host := rest } := by
  simp [step, fetch, hh, unlessFaulted_none hf, hb, State.ownTurn]

/-- Power-on reset wins in every state (R215). -/
theorem step_powerOn (hh : s.host = .powerOn :: rest) : step s = .next (s.powerOn rest) := by
  simp [step, fetch, hh]

end

/-- Settles O41: the laws of a step by its input, then `runCode_ok` for a code that decodes. -/
theorem stepRunsDecodedInstruction : Obligations.StepRunsDecodedInstruction := by
  refine ⟨fun s hf => ⟨fun p rest => step_present hf, fun p rest => step_issue_of_free hf, step_silent_of_busy hf,
    fun rest => step_pause_of_busy hf, fun p rest => step_issue_of_busy hf⟩, fun s i hf => ⟨fun p rest hh hd => ?_,
    fun p rest hh hb hd => ?_, fun hh hb hd => ?_, fun rest hh hb hd => ?_, fun p rest hh hb hd => ?_⟩⟩
  · exact (step_present hf hh).trans (runCode_ok _ hd)
  · exact (step_issue_of_free hf hh hb).trans (runCode_ok _ hd)
  · exact (step_silent_of_busy hf hh hb).trans (runCode_ok _ hd)
  · exact (step_pause_of_busy hf hh hb).trans (runCode_ok _ hd)
  · exact (step_issue_of_busy hf hh hb).trans (runCode_ok _ hd)

/-- Settles O42: the two steps of a free block without a command. -/
theorem freeBlockWaits : Obligations.FreeBlockWaits := by
  intro s hf hp
  have hb : s.phase.busy = false := (busy_eq_false_iff _).2 hp
  exact ⟨fun hh => step_silent_of_free hf hh hb, fun rest hh => step_pause_of_free hf hh hb⟩

/-- Settles O40: `State.powerOn` is the reset state but for what lies outside the block. -/
theorem powerOnResetWins : Obligations.PowerOnResetWins :=
  fun _ _ hh => ⟨_, step_powerOn hh, rfl, rfl, rfl, rfl, rfl, rfl, rfl, rfl⟩

/-- Settles O38: short of power-on reset a faulted state has no next one, and power-on reset leaves no fault. -/
theorem onlyPowerOnClearsFault : Obligations.OnlyPowerOnClearsFault := by
  intro s t f hf hstep
  by_cases hp : ∃ rest, s.host = .powerOn :: rest
  · obtain ⟨rest, hh⟩ := hp
    cases (step_powerOn hh).symm.trans hstep
    exact ⟨rfl, rest, hh⟩
  · cases (step_of_fault hf fun rest hh => hp ⟨rest, hh⟩).symm.trans hstep

/-- No next state of an instruction but a fault's replaces FAULT (R35). -/
theorem Effect.fault_eq {i : Instr} {s t : State} (h : Effect s i t) :
    t.fault = s.fault ∨ ∃ f w q, encode i = .command ⟨w, q⟩ ∧ t = s.raiseFault f w := by
  cases h
  case fault w q f he hinit => exact .inr ⟨f, w, q, he, rfl⟩
  case initSucceeds r hfree hpos htypes => rw [initSucceed_eq]; exact .inl rfl
  all_goals exact .inl rfl

/-- Settles O36: an instruction that changes FAULT ended in a fault. -/
theorem faultEntryChangesOnlyFault : Obligations.FaultEntryChangesOnlyFault := by
  refine ⟨fun i s t h hne => ?_, fun s f hf hp => step_of_fault hf hp⟩
  obtain heq | hfault := (exec_effect h).fault_eq
  · exact absurd heq hne
  · exact hfault

/-- Settles O30: POLL in Idle is `State.startPoll`. -/
theorem pollStartsLatching : Obligations.PollStartsLatching :=
  fun _ hp => ⟨_, whenConfigured_idle hp, rfl, rfl, rfl⟩

end Sys2Proof.Machine
end

section
/-!
PROOF. An instruction stops by name at the first element it reads that holds ⊥ (R9, R201; logs 6, 15 and 18).
-/

namespace Sys2Proof.Machine

theorem need_none {α : Type} {v : Option α} (h : v = none) (e : Element) (go : α → Result) : need v e go = .fault (.noValue e) := by
  rw [h, need]

/-- Reading an element that holds a value goes on with it. -/
theorem need_of_ne_none {α : Type} {v : Option α} (h : v ≠ none) (e : Element) {go : α → Result} {r : Result}
    (hgo : ∀ a, v = some a → go a = r) : need v e go = r := by
  obtain ⟨a, rfl⟩ := Option.ne_none_iff_exists'.1 h
  exact hgo a rfl

/-- R104: ACC with an undefined bit reads as no byte. -/
theorem accByte_eq_none {a : Vector (Option Bit) 8} (h : ∃ b : Fin 8, a[b] = none) : accByte a = none := by
  obtain ⟨b, hb⟩ := h
  fin_cases b <;> simp_all [accByte]

/-- R145: a type that is none of R76's has no decoder. -/
theorem decoderFor_of_illegal {t : Nat} (h8 : t ≠ 0x08) (h12 : t ≠ 0x0C) (h16 : t ≠ 0x10) : decoderFor t = none := by
  rw [decoderFor, if_neg h16, if_neg h8, if_neg h12]

theorem gotoDecoder_of_illegal {t : Nat} (s : State) (h : decoderFor t = none) : s.gotoDecoder t = .fault (.illegalType t) := by
  simp only [State.gotoDecoder, h]

/-- R75: INIT beside a record of another form is refused. -/
theorem runCode_init_of_malformed (s : State) {r : InitRecord} (h : r.wellFormed s.params ≠ true) :
    runCode (.command ⟨initWord, r⟩) s = .refused .malformedRecord := by
  have hd : decode s.params (.command ⟨initWord, r⟩) = .error .malformedRecord := by
    refine (decodeCommand_of_init (opField_commandWord 0x00 0x01)).trans ?_
    rw [initWord, withZeroArg_commandWord]
    exact if_neg h
  exact runCode_error s hd

/-- Settles O37: each clause by the order in which its instruction reads. -/
theorem undefinedReadsStopByName : Obligations.UndefinedReadsStopByName := by
  intro s
  refine ⟨fun h => ⟨need_none h _ _, need_none h _ _⟩, fun h => need_none h _ _, fun h => need_none (accByte_eq_none h) _ _,
    fun hacc => ?_, fun h => need_none h _ _, fun i hi => ?_, fun h => ⟨need_none h _ _, need_none h _ _, need_none h _ _⟩,
    fun h => need_none h _ _, fun hx h => ?_, fun i hx hi => ?_, fun h => need_none h _ _, fun hp h => ?_, fun id h => ?_,
    fun r h => ?_⟩
  · obtain ⟨v, hv⟩ := accByte_some hacc
    have hbyte : accByte s.acc ≠ none := by simp [hv]
    exact ⟨fun hk => need_of_ne_none hbyte _ fun _ _ => need_none hk _ _,
      fun hk hn => need_of_ne_none hbyte _ fun _ _ => need_of_ne_none hk _ fun _ _ => need_none hn _ _⟩
  · have hsplit {r : Result} (h : (need (entryAt s.raw (pairByte i)) .raw fun b => need (entryAt s.type i) .type fun t =>
        { s with code := some (codeOf b i) }.gotoDecoder t) = r) : exec .split s = r := by
      rw [← h, exec, execSplit, hi, need_some]
    refine ⟨fun hb => hsplit (need_none hb _ _), fun hb ht => hsplit (need_of_ne_none hb _ fun _ _ => need_none ht _ _),
      fun t hb ht h8 h12 h16 => hsplit (need_of_ne_none hb _ fun b _ => ?_)⟩
    rw [ht, need_some]
    exact gotoDecoder_of_illegal _ (decoderFor_of_illegal h8 h12 h16)
  · exact need_of_ne_none hx _ fun _ _ => need_none h _ _
  · have hne : s.i ≠ none := by simp [hi]
    have hat {j : Nat} (hj : s.i = some j) : j = i := Option.some.inj (hj.symm.trans hi)
    refine ⟨fun hold => need_of_ne_none hx _ fun _ _ => need_of_ne_none hne _ fun j hj => ?_,
      fun hold hn => need_of_ne_none hx _ fun _ _ => need_of_ne_none hne _ fun j hj => ?_⟩
    · rw [hat hj]; exact need_none hold _ _
    · rw [hat hj]; exact need_of_ne_none hold _ fun _ _ => need_none hn _ _
  · exact ⟨(whenConfigured_idle hp).trans (need_none h _ _), fun n => (whenConfigured_idle hp).trans (need_none h _ _)⟩
  · exact runCode_error (e := .micro id) s (decodeMicro_of_unnamed h)
  · refine runCode_init_of_malformed s fun hwf => ?_
    obtain ⟨hlen, hcount, htypes⟩ := (wellFormed_iff s.params r).1 hwf
    obtain hl | hc | ⟨t, ht, hw⟩ := h
    · exact hl hlen
    · omega
    · exact absurd (htypes t ht) (Nat.not_lt.2 hw)

end Sys2Proof.Machine
end

section
/-!
PROOF. What an outcome does not depend on: the hidden storage (R51), the reads before (R59), the host's inputs to come (R85, R240).
-/

namespace Sys2Proof.Machine

/-- An outcome with its next state changed by `g`. -/
def mapNext (g : State → State) : Result → Result
  | .next t => .next (g t)
  | .fault f => .fault f
  | .refused r => .refused r

@[simp] theorem mapNext_next (g : State → State) (t : State) : mapNext g (.next t) = .next (g t) := rfl

theorem mapNext_need {α : Type} (g : State → State) (v : Option α) (e : Element) (go : α → Result) :
    mapNext g (need v e go) = need v e fun a => mapNext g (go a) := by
  cases v <;> rfl

/-! ### The hidden storage (R51) -/

/-- The state with PREV, TYPE, RAW and ACC replaced. -/
def State.withHidden (s : State) (prev type : List (Option Nat)) (raw : List (Option Byte)) (acc : Vector (Option Bit) 8) : State :=
  { s with prev := prev, type := type, raw := raw, acc := acc }

section
variable (s : State) (prev type : List (Option Nat)) (raw : List (Option Byte)) (acc : Vector (Option Bit) 8)

/-- R185, R186: an INIT replaces the hidden storage, so it does not matter what that held. -/
theorem runInit_withHidden (r : InitRecord) : (s.withHidden prev type raw acc).runInit r = s.runInit r := by
  have hinit : initOutcome (s.withHidden prev type raw acc).params (s.withHidden prev type raw acc).allocDraw =
      initOutcome s.params s.allocDraw := rfl
  simp only [State.runInit, hinit, initSucceed_eq]
  rfl

theorem withHidden_cur : (s.withHidden prev type raw acc).cur = s.cur := rfl

theorem whenConfigured_withHidden (w : CmdWord) (go : Result) :
    whenConfigured (s.withHidden prev type raw acc) w (mapNext (·.withHidden prev type raw acc) go) =
      mapNext (·.withHidden prev type raw acc) (whenConfigured s w go) := by
  simp only [whenConfigured, whenFree, apply_ite (mapNext _)]
  rfl

/-- R51: a command that answers does so whatever the hidden storage holds, and leaves or discards it. -/
theorem exec_withHidden {i : Instr} {t : State} (hi : i.hostIssuable = true) (h : exec i s = .next t) :
    exec i (s.withHidden prev type raw acc) = .next t ∨
      exec i (s.withHidden prev type raw acc) = .next (t.withHidden prev type raw acc) := by
  rw [← mapNext_next (·.withHidden prev type raw acc), ← h]
  cases i
  case init r =>
    obtain ⟨hb, -⟩ | ⟨hfree, -⟩ := whenFree_next h
    · refine .inr ?_
      simp only [exec, execInit, whenFree_of_busy hb]
      exact whenFree_of_busy hb
    · refine .inl ?_
      simp only [exec, execInit, whenFree_of_free hfree, runInit_withHidden]
      exact whenFree_of_free hfree
  case poll => exact .inr (whenConfigured_withHidden s prev type raw acc pollWord (.next s.startPoll))
  case rdcur n =>
    refine .inr (Eq.trans ?_ (whenConfigured_withHidden s prev type raw acc (rdcurWord n) _))
    simp only [exec, execRdcur, mapNext_need, apply_ite (mapNext _), withHidden_cur]
    cases entryAt s.cur n.toNat <;> rfl
  case rdcnt =>
    refine .inr (Eq.trans ?_ (whenConfigured_withHidden s prev type raw acc rdcntWord _))
    rw [mapNext_need]
    rfl
  all_goals cases hi

end

/-- Settles O33: neither next state of `exec_withHidden` differs from the first one in an element the host can see. -/
theorem commandsDoNotReadPrivateStorage : Obligations.CommandsDoNotReadPrivateStorage := by
  intro i s t prev type raw acc hi h
  obtain hsame | hkept := exec_withHidden s prev type raw acc hi h
  · exact ⟨t, hsame, rfl, rfl, rfl, rfl, rfl, rfl, rfl, rfl, rfl⟩
  · exact ⟨_, hkept, rfl, rfl, rfl, rfl, rfl, rfl, rfl, rfl, rfl⟩

/-! ### The reads (R59) -/

/-- Settles O34: a read that answered changes the responses alone, so it reads the same again. -/
theorem readsHaveNoSideEffect : Obligations.ReadsHaveNoSideEffect := by
  intro i s t hread h
  cases exec_effect h
  case fault => exact ⟨rfl, fun v hv => absurd hv.symm (by simp)⟩
  case rdcur i n v hp hn hi hv =>
    refine ⟨rfl, fun w hw => ⟨rfl, _, execRdcur_of_written hp hn hi hv, ?_⟩⟩
    obtain rfl : Response.cur v = w := by simpa using hw
    rfl
  case rdcnt n hp hn =>
    refine ⟨rfl, fun w hw => ⟨rfl, _, execRdcnt_of_count hp hn, ?_⟩⟩
    obtain rfl : Response.count n = w := by simpa using hw
    rfl
  all_goals simp at hread

/-! ### The host's inputs to come (R85, R240) -/

/-- The state with other inputs of the host to come. -/
def State.withHost (s : State) (h : List HostInput) : State := { s with host := h }

theorem gotoDecoder_withHost (s : State) (t : Nat) (h : List HostInput) :
    (s.withHost h).gotoDecoder t = mapNext (·.withHost h) (s.gotoDecoder t) := by
  unfold State.gotoDecoder
  cases decoderFor t <;> rfl

/-- R85: a micro-step reads none of the host's inputs, so it does the same beside any. -/
theorem exec_withHost {i : Instr} (hi : i.hostIssuable = false) (s : State) (h : List HostInput) :
    exec i (s.withHost h) = mapNext (·.withHost h) (exec i s) := by
  cases i
  case init | poll | rdcur | rdcnt => cases hi
  case latchPulse => simp only [exec, execLatchPulse, pulseLatch_eq]; rfl
  case clearChg => rfl
  case inhAssert | inhRelease => simp only [exec, execInhAssert, execInhRelease, mapNext_need, driveInhibit_eq]; rfl
  case shiftBit => simp only [exec, execShiftBit, mapNext_need, shiftIn_eq, apply_ite (mapNext _)]; rfl
  case storeByte => simp only [exec, execStoreByte, mapNext_need, apply_ite (mapNext _)]; rfl
  case split => simp only [exec, execSplit, mapNext_need, ← gotoDecoder_withHost]; rfl
  case decodeGray | decodeLut8 | decodeLut12 =>
    simp only [exec, execDecodeGray, execDecodeLut8, execDecodeLut12, decodeWith, mapNext_need]; rfl
  case compareCommit => simp only [exec, execCompareCommit, mapNext_need, apply_ite (mapNext _)]; rfl
  case pollDone => simp only [exec, execPollDone, mapNext_need]; rfl

/-- R85: a micro-step id that answers a next state names the instruction that does. -/
theorem runCode_micro_next {id : Nibble} {s t : State} (h : runCode (.micro id) s = .next t) :
    ∃ i, decodeMicro id = .ok i ∧ exec i s = .next t := by
  by_cases hid : id = 0x0 ∨ 0xD ≤ id.toNat
  · cases (runCode_error (e := .micro id) s (decodeMicro_of_unnamed hid)).symm.trans h
  · obtain ⟨i, hd⟩ := exists_decodeMicro (fun h0 => hid (.inl h0)) (Nat.le_of_lt_succ (Nat.not_le.1 fun h => hid (.inr h)))
    exact ⟨i, hd, (runCode_ok (e := .micro id) s hd).symm.trans h⟩

/-- R240: what the sequencer's micro-step does, it does beside any inputs of the host. -/
theorem runCode_micro_withHost {id : Nibble} {s t : State} (h : runCode (.micro id) s = .next t) (host : List HostInput) :
    runCode (.micro id) (s.withHost host) = .next (t.withHost host) := by
  obtain ⟨i, hd, hexec⟩ := runCode_micro_next h
  rw [runCode_ok (e := .micro id) (s.withHost host) hd, exec_withHost (decodeMicro_ok hd).2, hexec, mapNext_next]

/-- Settles O43: with an issued command waiting, the step of a busy block is its sequencer's, as with a silent host. -/
theorem issuedCommandWaitsForPoll : Obligations.IssuedCommandWaitsForPoll := by
  intro s t p rest hh hb hstep
  have hf : s.fault = none := by
    by_contra hne
    obtain ⟨f, hf⟩ := Option.ne_none_iff_exists'.1 hne
    cases (step_of_fault (s := s.withHost []) hf nofun).symm.trans hstep
  have hsilent := (step_silent_of_busy (s := s.withHost []) hf rfl hb).symm.trans hstep
  exact (step_issue_of_busy hf hh hb).trans (runCode_micro_withHost hsilent s.host)

end Sys2Proof.Machine
end

section
/-!
PROOF. The decoders as functions of the sixteen codes (R131 to R133, R146, R147), and the normalised count (R182).
-/

namespace Sys2Proof.Machine

/-! ### The Gray conversion -/

/-- R131, from R130's loop: `n` after three rounds, since a round past the loop's last would change nothing. -/
theorem grayIndex_eq_xor (g : Nibble) : grayIndex g = g ^^^ (g >>> 1) ^^^ (g >>> 2) ^^^ (g >>> 3) := by
  revert g; decide

theorem grayIndex_getLsbD (g : Nibble) :
    (grayIndex g).getLsbD 3 = g.getLsbD 3 ∧ (grayIndex g).getLsbD 2 = (g.getLsbD 3 ^^ g.getLsbD 2) ∧
    (grayIndex g).getLsbD 1 = (g.getLsbD 3 ^^ g.getLsbD 2 ^^ g.getLsbD 1) ∧
    (grayIndex g).getLsbD 0 = (g.getLsbD 3 ^^ g.getLsbD 2 ^^ g.getLsbD 1 ^^ g.getLsbD 0) := by
  revert g; decide

/-- Settles O16: the closed form holds of each of the sixteen codes, and DECODE_GRAY's index is `grayIndex`. -/
theorem grayIndexClosedForm : Obligations.GrayIndexClosedForm := by
  refine ⟨fun g => ⟨grayIndex_eq_xor g, grayIndex_getLsbD g⟩, fun s c hc => ?_⟩
  rw [← grayIndex_eq_xor]
  exact ⟨_, decodeWith_eq grayIndex hc, rfl⟩

/-- Settles O17: the sixteen codes in order. -/
theorem grayIndexTable : Obligations.GrayIndexTable := by
  unfold Obligations.GrayIndexTable
  decide

/-- R133: the code of an index. -/
theorem grayIndex_xor_ushiftRight (b : Nibble) : grayIndex (b ^^^ (b >>> 1)) = b := by
  revert b; decide

/-- R133: on the sixteen codes a conversion that reaches every index reaches each of them once. -/
theorem grayIndex_bijective : Function.Bijective grayIndex := by
  have hsurj : Function.Surjective grayIndex := fun b => ⟨_, grayIndex_xor_ushiftRight b⟩
  exact ⟨Finite.injective_iff_surjective.2 hsurj, hsurj⟩

/-- Settles O18: the inverse makes the conversion a bijection; the codes of consecutive indices are compared one by one. -/
theorem grayIndexIsBijective : Obligations.GrayIndexIsBijective :=
  ⟨grayIndex_bijective, rfl, grayIndex_xor_ushiftRight, by decide⟩

/-! ### The tables -/

/-- Settles O22: the tables are compared entry by entry, and a stored index is below every admitted sentinel. -/
theorem tablesAreCyclicGrayCodes : Obligations.TablesAreCyclicGrayCodes := by
  refine ⟨by decide, by decide, by decide, by decide, by decide, by decide, fun ps c hlegal => ?_⟩
  exact ⟨storedIndex_ne_sentinel hlegal _, storedIndex_ne_sentinel hlegal _, storedIndex_ne_sentinel hlegal _⟩

/-! ### The count -/

/-- Settles O27: below an even ceiling raising to the next even value stays below it. -/
theorem clampingOrderIsIndifferent : Obligations.ClampingOrderIsIndifferent := by
  intro ps c hlegal
  have heven := hlegal.ceilingEven
  rw [normalise]
  omega

end Sys2Proof.Machine
end

section
/-!
PROOF. The parts of the invariant stage by stage: what the sequencer's invariant says where the micro-step to come is known, and how each
part carries over to a state that differs only in what the part does not read.
-/

namespace Sys2Proof.Machine

section
variable {s : State}

/-! ### How far the running poll has come -/

theorem rawFilled_of_latching (h : s.mstep.toNat ≤ 0x3) : s.rawFilled = 0 := if_pos h

theorem rawFilled_of_shifting {k : Nat} (hm : s.mstep = 0x4 ∨ s.mstep = 0x5) (hk : s.k = some k) : s.rawFilled = k := by
  obtain hm | hm := hm <;> simp [State.rawFilled, hm, hk]

theorem rawFilled_of_decoding (h : 0x5 < s.mstep.toNat) : s.rawFilled = s.switches / 2 := by
  rw [State.rawFilled, if_neg (by omega), if_neg (by omega)]

theorem bitsFilled_of_shiftBit {j : Fin 8} (hm : s.mstep = 0x4) (hj : s.j = some j) : s.bitsFilled = j.val := by
  simp [State.bitsFilled, hm, hj]

theorem bitsFilled_of_storeByte (hm : s.mstep = 0x5) : s.bitsFilled = 8 := if_pos hm

theorem committed_of_lt (h : s.mstep.toNat < 0x7) : s.committed = 0 := by
  have hC : s.mstep ≠ 0xC := by rintro hm; simp [hm] at h
  rw [State.committed, if_neg hC, if_neg (by omega)]

theorem committed_of_decoding {i : Nat} (h : 0x7 ≤ s.mstep.toNat) (h' : s.mstep.toNat ≤ 0xB) (hi : s.i = some i) : s.committed = i := by
  have hC : s.mstep ≠ 0xC := by rintro hm; simp [hm] at h'
  simp only [State.committed, if_neg hC, if_pos (And.intro h h'), hi]

/-- Up to CLEAR_CHG nothing has been compared. -/
theorem committed_eq_of_lt {t : State} (h : s.mstep.toNat < 0x7) (h' : t.mstep.toNat < 0x7) : t.committed = s.committed :=
  (committed_of_lt h').trans (committed_of_lt h).symm

/-- From SPLIT to COMPARE_COMMIT of one switch nothing more has been compared. -/
theorem committed_eq_of_decoding {t : State} {i : Nat} (h : 0x7 ≤ s.mstep.toNat ∧ s.mstep.toNat ≤ 0xB)
    (h' : 0x7 ≤ t.mstep.toNat ∧ t.mstep.toNat ≤ 0xB) (hi : s.i = some i) (hi' : t.i = some i) : t.committed = s.committed :=
  (committed_of_decoding h'.1 h'.2 hi').trans (committed_of_decoding h.1 h.2 hi).symm

theorem committed_of_pollDone (hm : s.mstep = 0xC) : s.committed = s.switches := if_pos hm

/-! ### The sequencer's invariant, introduced -/

/-- No poll runs: RAW, the code and the index hold nothing. -/
theorem seqInv_of_free (hm : s.mstep = 0x0) (hp : s.phase.busy = false) (hraw : ∀ k, entryAt s.raw k = none) (hcode : s.code = none)
    (hidx : s.idx = none) : s.SeqInv := by
  have hfilled : s.rawFilled = 0 := rawFilled_of_latching (by simp [hm])
  constructor <;> simp [hm, hp, hraw, hcode, hidx, hfilled]

/-- The Latching phase: RAW, the code and the index hold nothing. -/
theorem seqInv_of_latching (hm : s.mstep = 0x1 ∨ s.mstep = 0x2 ∨ s.mstep = 0x3) (hp : s.phase = .latching)
    (hraw : ∀ k, entryAt s.raw k = none) (hcode : s.code = none) (hidx : s.idx = none) : s.SeqInv := by
  have hfilled : s.rawFilled = 0 := rawFilled_of_latching (by obtain hm | hm | hm := hm <;> simp [hm])
  obtain hm | hm | hm := hm <;> constructor <;> simp [hm, hp, hraw, hcode, hidx, hfilled, Phase.busy, phaseOfMicro]

/-- The Shifting phase: RAW is filled below K, and ACC from bit 7 down as far as the sampled bits reach. -/
theorem seqInv_of_shifting {k : Nat} (hm : s.mstep = 0x4 ∨ s.mstep = 0x5) (hp : s.phase = .shifting) (hk : s.k = some k)
    (hlt : k < s.switches / 2) (hraw : ∀ m, entryAt s.raw m ≠ none ↔ m < k) (hj : s.j ≠ none)
    (hacc : ∀ b : Fin 8, s.acc[b] ≠ none ↔ 8 ≤ s.bitsFilled + b.val) (hcode : s.code = none) (hidx : s.idx = none) : s.SeqInv := by
  have hfilled := rawFilled_of_shifting hm hk
  obtain hm | hm := hm <;> constructor <;> simp_all [Phase.busy, phaseOfMicro]

/-- At the first bit of byte K. -/
theorem seqInv_of_byteStart {k : Nat} (hm : s.mstep = 0x4) (hp : s.phase = .shifting) (hk : s.k = some k) (hlt : k < s.switches / 2)
    (hraw : ∀ m, entryAt s.raw m ≠ none ↔ m < k) (hj : s.j = some 0) (hacc : s.acc = accUndefined) (hcode : s.code = none)
    (hidx : s.idx = none) : s.SeqInv := by
  refine seqInv_of_shifting (.inl hm) hp hk hlt hraw (by simp [hj]) (fun b => ?_) hcode hidx
  have hb : ¬ 8 ≤ s.bitsFilled + b.val := by
    rw [bitsFilled_of_shiftBit hm hj]; simp
  rw [hacc]
  exact iff_of_false (not_not.2 (accUndefined_getElem b)) hb

/-- Between the sampling and the switches: RAW holds the frame. -/
theorem seqInv_of_clearChg (hm : s.mstep = 0x6) (hp : s.phase = .decoding)
    (hraw : ∀ m, entryAt s.raw m ≠ none ↔ m < s.switches / 2) (hcode : s.code = none) (hidx : s.idx = none) : s.SeqInv := by
  have hfilled : s.rawFilled = s.switches / 2 := rawFilled_of_decoding (by simp [hm])
  constructor <;> simp [hm, hp, hraw, hcode, hidx, hfilled, Phase.busy, phaseOfMicro]

/-- At switch I of the Decoding phase: RAW holds the frame, CHG a value, and the code or the index is held where it is to be used. -/
theorem seqInv_of_decoding {i : Nat} (hlow : 0x7 ≤ s.mstep.toNat) (hhigh : s.mstep.toNat ≤ 0xB) (hp : s.phase = .decoding)
    (hraw : ∀ m, entryAt s.raw m ≠ none ↔ m < s.switches / 2) (hi : s.i = some i) (hlt : i < s.switches) (hchg : s.chg ≠ none)
    (hcode : s.code ≠ none ↔ s.mstep = 0x8 ∨ s.mstep = 0x9 ∨ s.mstep = 0xA)
    (hdecoder : s.code ≠ none → (entryAt s.type i).bind decoderFor = some s.mstep) (hidx : s.idx ≠ none ↔ s.mstep = 0xB)
    (hrange : ∀ x t, s.idx = some x → entryAt s.type i = some t → x.toNat < t) : s.SeqInv := by
  have hfilled : s.rawFilled = s.switches / 2 := rawFilled_of_decoding (by omega)
  have hm : s.mstep = 0x7 ∨ s.mstep = 0x8 ∨ s.mstep = 0x9 ∨ s.mstep = 0xA ∨ s.mstep = 0xB := by
    revert hlow hhigh; generalize s.mstep = m; revert m; decide
  have hphase : s.phase = phaseOfMicro s.mstep := by rw [hp]; obtain hm | hm | hm | hm | hm := hm <;> rw [hm] <;> rfl
  have hat {j : Nat} (hj : s.i = some j) : j = i := Option.some.inj (hj.symm.trans hi)
  refine ⟨?_, fun _ => ⟨by omega, hphase⟩, fun m => ?_, ?_, ?_, ?_, fun _ _ => ⟨i, hi, hlt⟩, fun _ => hchg, hcode,
    fun j hj => hat hj ▸ hdecoder, hidx, fun x j t hx hj => hat hj ▸ hrange x t hx⟩
  · rw [hp]; obtain hm | hm | hm | hm | hm := hm <;> simp [hm, Phase.busy]
  · rw [hfilled]; exact hraw m
  all_goals obtain hm | hm | hm | hm | hm := hm <;> simp [hm]

/-- After the last switch. -/
theorem seqInv_of_pollDone (hm : s.mstep = 0xC) (hp : s.phase = .compareAndCommit)
    (hraw : ∀ m, entryAt s.raw m ≠ none ↔ m < s.switches / 2) (hchg : s.chg ≠ none) (hcode : s.code = none) (hidx : s.idx = none) :
    s.SeqInv := by
  have hfilled : s.rawFilled = s.switches / 2 := rawFilled_of_decoding (by simp [hm])
  constructor <;> simp [hm, hp, hraw, hchg, hcode, hidx, hfilled, Phase.busy, phaseOfMicro]

end

end Sys2Proof.Machine
end

section
/-!
PROOF. Every instruction keeps the invariant, where a micro-step is the one the sequencer is at: part by part, over the instruction's next
states.
-/

namespace Sys2Proof.Machine

/-- The state with FAULT, the responses, the inputs and the answers to come replaced: the elements the invariant does not speak of. -/
def State.withOutside (s : State) (fault : Option FaultRecord) (responses : List Response) (host : List HostInput) (serial : List Bit)
    (alloc : List Bool) (draws : Nat) : State :=
  { s with fault := fault, responses := responses, host := host, serial := serial, alloc := alloc, draws := draws }

theorem inv_withOutside {s : State} (h : s.Inv) (fault : Option FaultRecord) (responses : List Response) (host : List HostInput)
    (serial : List Bit) (alloc : List Bool) (draws : Nat) : (s.withOutside fault responses host serial alloc draws).Inv := by
  obtain ⟨hz, hc, hb, hs, hl⟩ := h
  exact ⟨⟨hz.1, hz.2, hz.3, hz.4, hz.5⟩, ⟨hc.1, hc.2, hc.3, hc.4, hc.5, hc.6, hc.7⟩, ⟨hb.1, hb.2, hb.3, hb.4⟩,
    ⟨hs.1, hs.2, hs.3, hs.4, hs.5, hs.6, hs.7, hs.8, hs.9, hs.10, hs.11, hs.12⟩, ⟨hl.1, hl.2, hl.3⟩⟩

/-! ### What the invariant gives at a stage -/

section
variable {s : State}

theorem State.SeqInv.phase_of_mstep (h : s.SeqInv) {id : Nibble} (hm : s.mstep = id) (hne : id ≠ 0x0) : s.phase = phaseOfMicro id :=
  hm ▸ (h.phase (hm ▸ hne)).2

theorem State.SeqInv.mstep_of_free (h : s.SeqInv) (hp : s.phase.busy = false) : s.mstep = 0x0 := h.rest.2 hp

theorem State.SeqInv.code_eq_none (h : s.SeqInv) (hm : ¬ (s.mstep = 0x8 ∨ s.mstep = 0x9 ∨ s.mstep = 0xA)) : s.code = none :=
  not_not.1 (mt h.codeHeld.1 hm)

theorem State.SeqInv.idx_eq_none (h : s.SeqInv) (hm : s.mstep ≠ 0xB) : s.idx = none := not_not.1 (mt h.idxHeld.1 hm)

theorem State.SeqInv.raw_eq_none (h : s.SeqInv) (hm : s.mstep.toNat ≤ 0x3) (k : Nat) : entryAt s.raw k = none := by
  have hraw := h.rawBytes k
  rw [rawFilled_of_latching hm] at hraw
  simpa using hraw

theorem State.SeqInv.raw_of_decoding (h : s.SeqInv) (hm : 0x5 < s.mstep.toNat) (k : Nat) :
    entryAt s.raw k ≠ none ↔ k < s.switches / 2 :=
  rawFilled_of_decoding hm ▸ h.rawBytes k

/-- A configured block has a count, and the range of R22. -/
theorem State.Inv.count_of_configured (h : s.Inv) (hp : s.phase ≠ .unconfigured) :
    ∃ n : Byte, s.count = some n ∧ s.switches = n.toNat ∧ 2 ≤ n.toNat ∧ n.toNat ≤ s.params.maxCount ∧ n.toNat % 2 = 0 := by
  obtain ⟨n, hn⟩ := Option.ne_none_iff_exists'.1 (mt h.config.phaseCount.2 hp)
  exact ⟨n, hn, switches_of_count hn, h.config.countRange n hn⟩

/-- A poll runs only in a configured block. -/
theorem State.Inv.configured_of_busy (h : s.Inv) (hm : s.mstep ≠ 0x0) : s.phase ≠ .unconfigured := by
  intro hp
  exact hm (h.seq.rest.2 (by rw [hp]; rfl))

end

/-- The instruction is one the sequencer may run now: a command, or the micro-step it is at. -/
def Due (i : Instr) (s : State) : Prop := ∀ id, encode i = .micro id → s.mstep = id

section
variable {s t : State} {i : Instr}

/-- Every next state has arrays of the lengths the parameters give. -/
theorem Effect.shapeInv (he : Effect s i t) (h : s.ShapeInv) : t.ShapeInv := by
  obtain ⟨hlegal, htype, hcur, hprev, hraw⟩ := h
  cases he
  case initFails r q _ => exact initFail_shapeInv (s := s.allocDrawn) hlegal q
  case initSucceeds r _ _ _ => exact initSucceed_shapeInv (s := s.allocDrawn) hlegal _ r
  case storeByte => exact ⟨hlegal, htype, hcur, hprev, (setEntry_length _ _ _).trans hraw⟩
  case compareCommit =>
    exact ⟨hlegal, htype, (setEntry_length _ _ _).trans hcur, (prevAfter_length _ _ _ _).trans hprev, hraw⟩
  case pollDone => exact ⟨hlegal, htype, hcur, hprev, undefinedArray_length _⟩
  all_goals exact ⟨hlegal, htype, hcur, hprev, hraw⟩

/-- The configuration's invariant, where the configuration and the domain of PREV are as before. -/
theorem configInv_of_same (h : s.ConfigInv) (hparams : t.params = s.params) (hcount : t.count = s.count) (htype : t.type = s.type)
    (hinh : t.hasInh = s.hasInh) (hphase : t.phase = .unconfigured ↔ s.phase = .unconfigured)
    (hprev : ∀ i, entryAt t.prev i = none ↔ entryAt s.prev i = none) : t.ConfigInv := by
  have hn : t.switches = s.switches := by rw [State.switches, State.switches, hcount]
  refine ⟨?_, ?_, ?_, ?_, ?_, fun i hi => ?_, fun i hi => ?_⟩
  · rw [hcount, hparams]; exact h.countRange
  · rw [hcount, hphase]; exact h.phaseCount
  · rw [hcount, hinh]; exact h.inhibitCount
  · rw [hn, htype, hparams]; exact h.typeBelow
  · rw [hn, htype]; exact h.typeAbove
  · rw [hn] at hi
    obtain ⟨v, hv⟩ := h.prevBelow i hi
    exact Option.ne_none_iff_exists'.1 (mt (hprev i).1 (by simp [hv]))
  · exact (hprev i).2 (h.prevAbove i (hn ▸ hi))

/-- R185: the configuration a successful INIT writes. -/
theorem initSucceed_configInv (hlegal : s.params.Legal) {r : InitRecord} (hpos : 0 < normalise s.params r.countIn)
    (htypes : typesLegal s.params r (normalise s.params r.countIn) = true) :
    (s.initSucceed (normalise s.params r.countIn) r).ConfigInv := by
  have hle := normalise_le s.params r.countIn
  have heven := normalise_even hlegal r.countIn
  have hcount := toNat_ofNat_normalise hlegal r.countIn
  have hmem := (typesLegal_iff _ _ _).1 htypes
  rw [initSucceed_eq]
  refine ⟨fun c hc => ?_, ?_, ?_, fun i hi => ?_, fun i hi => ?_, fun i hi => ?_, fun i hi => ?_⟩
  · cases hc; simp only [hcount]; omega
  · simp
  · simp
  · exact ⟨_, filledBelow_below _ (hcount ▸ hi) hle, hmem i (hcount ▸ hi)⟩
  · exact filledBelow_above _ (hcount ▸ hi)
  · exact ⟨_, filledBelow_below _ (hcount ▸ hi) hle⟩
  · exact filledBelow_above _ (hcount ▸ hi)

theorem initFail_configInv (s : State) (q : InitFailure) : (s.initFail q).ConfigInv := by
  rw [initFail_eq]
  constructor <;> simp [State.switches]

/-- A configured block stays so where the configuration is as before. -/
theorem configInv_of_configured (h : s.Inv) (hp : s.phase ≠ .unconfigured) (hp' : t.phase ≠ .unconfigured)
    (hsame : t.params = s.params ∧ t.count = s.count ∧ t.type = s.type ∧ t.hasInh = s.hasInh)
    (hprev : ∀ i, entryAt t.prev i = none ↔ entryAt s.prev i = none) : t.ConfigInv := by
  obtain ⟨hparams, hcount, htype, hinh⟩ := hsame
  exact configInv_of_same h.config hparams hcount htype hinh (iff_of_false hp' hp) hprev

/-- R163: COMPARE_COMMIT writes PREV where it already holds a value. -/
theorem entryAt_prevAfter_eq_none_iff {prev : List (Option Nat)} {i old : Nat} (hold : entryAt prev i = some old) (new m : Nat) :
    entryAt (prevAfter (entryChanged new old) prev i new) m = none ↔ entryAt prev m = none := by
  rw [entryAt_prevAfter hold]
  split_ifs with hm
  · simp [hm, hold]
  · rfl

/-- Only INIT writes the configuration, and a running poll's block stays configured. -/
theorem Effect.configInv (he : Effect s i t) (h : s.Inv) (hdue : Due i s) : t.ConfigInv := by
  have hbusy {id : Nibble} (hid : encode i = .micro id) (hne : id ≠ 0x0) : s.phase ≠ .unconfigured :=
    h.configured_of_busy (hdue id hid ▸ hne)
  cases he
  case fault | rdcur | rdcnt => exact (inv_withOutside h _ _ _ _ _ _).config
  case initFails r q _ => exact initFail_configInv _ q
  case initSucceeds r _ hpos htypes => exact initSucceed_configInv (s := s.allocDrawn) h.shape.legal hpos htypes
  case poll hp => exact configInv_of_configured h (by simp [hp]) nofun ⟨rfl, rfl, rfl, rfl⟩ fun _ => Iff.rfl
  case compareCommit x i old n hx hi hold hn =>
    refine configInv_of_configured h (hbusy rfl (by decide)) ?_ ⟨rfl, rfl, rfl, rfl⟩ (entryAt_prevAfter_eq_none_iff hold _)
    dsimp only; split <;> nofun
  case storeByte =>
    refine configInv_of_configured h (hbusy rfl (by decide)) ?_ ⟨rfl, rfl, rfl, rfl⟩ fun _ => Iff.rfl
    have := hbusy rfl (by decide)
    dsimp only; split <;> simp [this]
  case inhRelease | pollDone =>
    exact configInv_of_configured h (hbusy rfl (by decide)) nofun ⟨rfl, rfl, rfl, rfl⟩ fun _ => Iff.rfl
  all_goals exact configInv_of_same h.config rfl rfl rfl rfl Iff.rfl fun _ => Iff.rfl

/-- R145: the decoder of a type is one of three micro-steps. -/
theorem decoderFor_eq_some {ty : Nat} {id : Nibble} (h : decoderFor ty = some id) :
    (ty = 0x10 ∧ id = 0x8) ∨ (ty = 0x08 ∧ id = 0x9) ∨ (ty = 0x0C ∧ id = 0xA) := by
  unfold decoderFor at h
  split_ifs at h <;> cases h <;> simp_all

/-- The lines at rest: the inhibit line is deasserted where the micro-step to come is neither LATCH_PULSE nor INH_RELEASE. -/
theorem lineInv_of_resting (h : s.LineInv) (hp : s.phase ≠ .unconfigured) (hm : s.mstep ≠ 0x2 ∧ s.mstep ≠ 0x3)
    (hm' : t.mstep ≠ 0x2 ∧ t.mstep ≠ 0x3) (hsame : t.params = s.params ∧ t.hasInh = s.hasInh ∧ t.inhO = s.inhO)
    (hlatch : t.latchO = s.latchO) (hclock : t.clkO = s.clkO ∨ t.clkO = .driven false) : t.LineInv := by
  obtain ⟨hparams, hhas, hinhO⟩ := hsame
  refine ⟨fun _ => hlatch.trans (h.latch hp), fun _ => ?_, fun hinh => ?_⟩
  · obtain hc | hc := hclock
    · exact hc.trans (h.clock hp)
    · exact hc
  · rw [hinhO, h.inhibit (hhas ▸ hinh), hparams, if_neg (not_or.2 hm), if_neg (not_or.2 hm')]

/-- The inhibit line moves only in INH_ASSERT and INH_RELEASE; the other two are at rest after every instruction. -/
theorem Effect.lineInv (he : Effect s i t) (h : s.Inv) (hdue : Due i s) : t.LineInv := by
  have hbusy {id : Nibble} (hid : encode i = .micro id) (hne : id ≠ 0x0) : s.phase ≠ .unconfigured :=
    h.configured_of_busy (hdue id hid ▸ hne)
  cases he
  case fault | rdcur | rdcnt => exact (inv_withOutside h _ _ _ _ _ _).lines
  case initFails r q _ => rw [initFail_eq]; constructor <;> simp
  case initSucceeds r _ hpos htypes => rw [initSucceed_eq]; constructor <;> simp +contextual
  case poll hp =>
    have hm := h.seq.mstep_of_free ((busy_eq_false_iff _).2 (.inl hp))
    exact lineInv_of_resting h.lines (by simp [hp]) (by simp [hm]) (by simp) ⟨rfl, rfl, rfl⟩ rfl (.inl rfl)
  case inhAssert b hb =>
    have hp := hbusy rfl (by decide)
    refine ⟨fun _ => h.lines.latch hp, fun _ => h.lines.clock hp, fun hinh => ?_⟩
    cases hb.symm.trans hinh
    rfl
  case latchPulse =>
    have hm : s.mstep = 0x2 := hdue _ rfl
    exact ⟨fun _ => rfl, fun _ => h.lines.clock (hbusy rfl (by decide)), fun hinh => by simp [h.lines.inhibit hinh, hm]⟩
  case inhRelease b hb =>
    have hp := hbusy rfl (by decide)
    refine ⟨fun _ => h.lines.latch hp, fun _ => h.lines.clock hp, fun hinh => ?_⟩
    cases hb.symm.trans hinh
    rfl
  case shiftBit j hj =>
    have hm : s.mstep = 0x4 := hdue _ rfl
    exact lineInv_of_resting h.lines (hbusy rfl (by decide)) (by simp [hm]) (by dsimp only; split <;> simp) ⟨rfl, rfl, rfl⟩ rfl
      (.inr rfl)
  case storeByte | compareCommit =>
    have hm := hdue _ rfl
    exact lineInv_of_resting h.lines (hbusy rfl (by decide)) (by simp [hm]) (by dsimp only; split <;> simp) ⟨rfl, rfl, rfl⟩ rfl
      (.inl rfl)
  case split k ty b id hi hb hty hid =>
    have hm := hdue _ rfl
    have hid : id ≠ 0x2 ∧ id ≠ 0x3 := by obtain ⟨-, rfl⟩ | ⟨-, rfl⟩ | ⟨-, rfl⟩ := decoderFor_eq_some hid <;> decide
    exact lineInv_of_resting h.lines (hbusy rfl (by decide)) (by simp [hm]) hid ⟨rfl, rfl, rfl⟩ rfl (.inl rfl)
  case clearChg | decodeGray | decodeLut8 | decodeLut12 | pollDone =>
    have hm := hdue _ rfl
    exact lineInv_of_resting h.lines (hbusy rfl (by decide)) (by simp [hm]) (by simp) ⟨rfl, rfl, rfl⟩ rfl (.inl rfl)

/-! ### The state buffer -/

/-- The buffer's invariant, where the buffer and how far the poll has come are as before. -/
theorem bufferInv_of_same (h : s.BufferInv) (hcur : t.cur = s.cur) (hprev : t.prev = s.prev) (htype : t.type = s.type)
    (hparams : t.params = s.params) (hcount : t.count = s.count) (hcommitted : t.committed = s.committed) : t.BufferInv := by
  have hn : t.switches = s.switches := by rw [State.switches, State.switches, hcount]
  constructor
  · rw [hcur, hprev, hparams]; exact h.snapshot
  · rw [hcur, htype]; exact h.indexRange
  · rw [hcur, hcommitted]; exact h.doneBelow
  · rw [hcur, hcommitted, hn]; exact h.restAlike

theorem initFail_bufferInv (s : State) (q : InitFailure) : (s.initFail q).BufferInv := by
  rw [initFail_eq]
  constructor <;> simp [State.committed]

/-- R185: nothing is decoded yet, and PREV holds the sentinel below COUNT. -/
theorem initSucceed_bufferInv (s : State) {n : Nat} (hn : n ≤ s.params.maxCount) (r : InitRecord) : (s.initSucceed n r).BufferInv := by
  rw [initSucceed_eq]
  refine ⟨fun i => ?_, by simp, by simp [State.committed], .inl (by simp)⟩
  by_cases hi : i < n
  · exact .inr ⟨entryAt_undefinedArray _ i, filledBelow_below _ hi hn⟩
  · left
    simp [filledBelow_above _ (Nat.not_lt.1 hi)]

/-- R163: the buffer after the commit of switch `i`, the next one in order. -/
theorem compareCommit_bufferInv (h : s.Inv) {x : Nibble} {i old : Nat} (hi : s.i = some i) (hx : s.idx = some x) (hm : s.mstep = 0xB)
    (hold : entryAt s.prev i = some old)
    (hcur : t.cur = setEntry s.cur i (storedIndex s.params x))
    (hprev : t.prev = prevAfter (entryChanged (storedIndex s.params x) old) s.prev i (storedIndex s.params x))
    (hsame : t.params = s.params ∧ t.count = s.count ∧ t.type = s.type) (hcommitted : t.committed = i + 1) : t.BufferInv := by
  obtain ⟨hparams, hcount, htype⟩ := hsame
  have hn : t.switches = s.switches := by rw [State.switches, State.switches, hcount]
  have hc : s.committed = i := committed_of_decoding (by simp [hm]) (by simp [hm]) hi
  have hlt : i < s.cur.length := by
    rw [h.shape.curLength, ← h.shape.prevLength]; exact entryAt_lt hold
  have hcur' (m : Nat) : entryAt t.cur m = if m = i then some (storedIndex s.params x) else entryAt s.cur m := by
    rw [hcur]; exact entryAt_setEntry hlt _ m
  have hprev' (m : Nat) : entryAt t.prev m = if m = i then some (storedIndex s.params x) else entryAt s.prev m := by
    rw [hprev]; exact entryAt_prevAfter hold _ m
  refine ⟨fun m => ?_, fun m v ty hv hty => ?_, fun m hmc => ?_, ?_⟩
  · rw [hcur', hprev', hparams]
    split_ifs
    · exact .inl rfl
    · exact h.buffer.snapshot m
  · rw [hcur'] at hv
    rw [htype] at hty
    split_ifs at hv with hmi
    · cases hv
      rw [storedIndex_eq h.shape.legal]
      exact h.seq.idxRange x m ty hx (hmi ▸ hi) hty
    · exact h.buffer.indexRange m v ty hv hty
  · rw [hcur']
    split_ifs with hmi
    · simp
    · exact h.buffer.doneBelow m (by omega)
  · rw [hcommitted, hn]
    refine h.buffer.restAlike.imp (fun hall m hmc hms => ?_) (fun hall m hmc hms => ?_)
    all_goals rw [hcur', if_neg (by omega)]; exact hall m (by omega) hms

/-- R164: a poll that ends has decoded every switch. -/
theorem pollDone_bufferInv (h : s.BufferInv) (hm : s.mstep = 0xC) (hm' : t.mstep = 0x0) (hcur : t.cur = s.cur) (hprev : t.prev = s.prev)
    (htype : t.type = s.type) (hparams : t.params = s.params) (hcount : t.count = s.count) : t.BufferInv := by
  have hn : t.switches = s.switches := by rw [State.switches, State.switches, hcount]
  have hc : t.committed = 0 := committed_of_lt (by simp [hm'])
  refine ⟨?_, ?_, by simp [hc], .inr fun i _ hi => ?_⟩
  · rw [hcur, hprev, hparams]; exact h.snapshot
  · rw [hcur, htype]; exact h.indexRange
  · rw [hcur]; exact h.doneBelow i (by rw [committed_of_pollDone hm]; omega)

/-- Only INIT and COMPARE_COMMIT write the buffer; what is compared advances with the latter alone. -/
theorem Effect.bufferInv (he : Effect s i t) (h : s.Inv) (hdue : Due i s) : t.BufferInv := by
  cases he
  case fault | rdcur | rdcnt => exact (inv_withOutside h _ _ _ _ _ _).buffer
  case initFails r q _ => exact initFail_bufferInv _ q
  case initSucceeds r _ hpos htypes => exact initSucceed_bufferInv s.allocDrawn (normalise_le _ _) r
  case poll hp =>
    have hm := h.seq.mstep_of_free ((busy_eq_false_iff _).2 (.inl hp))
    exact bufferInv_of_same h.buffer rfl rfl rfl rfl rfl (committed_eq_of_lt (by simp [hm]) (by simp))
  case inhAssert | latchPulse | inhRelease =>
    have hm := hdue _ rfl
    exact bufferInv_of_same h.buffer rfl rfl rfl rfl rfl (committed_eq_of_lt (by simp [hm]) (by simp))
  case shiftBit | storeByte =>
    have hm := hdue _ rfl
    exact bufferInv_of_same h.buffer rfl rfl rfl rfl rfl (committed_eq_of_lt (by simp [hm]) (by dsimp only; split <;> simp))
  case clearChg =>
    have hm := hdue _ rfl
    exact bufferInv_of_same h.buffer rfl rfl rfl rfl rfl ((committed_of_decoding (by simp) (by simp) rfl).trans
      (committed_of_lt (by simp [hm])).symm)
  case split k ty b id hi hb hty hid =>
    have hm := hdue _ rfl
    have hid : 0x7 ≤ id.toNat ∧ id.toNat ≤ 0xB := by
      obtain ⟨-, rfl⟩ | ⟨-, rfl⟩ | ⟨-, rfl⟩ := decoderFor_eq_some hid <;> decide
    exact bufferInv_of_same h.buffer rfl rfl rfl rfl rfl (committed_eq_of_decoding (by simp [hm]) hid hi hi)
  case decodeGray | decodeLut8 | decodeLut12 =>
    have hm := hdue _ rfl
    obtain ⟨k, hk, -⟩ := h.seq.switchIndex (by simp [hm]) (by simp [hm])
    exact bufferInv_of_same h.buffer rfl rfl rfl rfl rfl (committed_eq_of_decoding (by simp [hm]) (by simp) hk hk)
  case compareCommit x i old n hx hi hold hn =>
    have hm := hdue _ rfl
    obtain ⟨j, hj, hlt⟩ := h.seq.switchIndex (by simp [hm]) (by simp [hm])
    refine compareCommit_bufferInv h hi hx hm hold rfl rfl ⟨rfl, rfl, rfl⟩ ?_
    by_cases hnext : i + 1 < n.toNat
    · simp only [if_pos hnext]
      exact committed_of_decoding (by simp) (by simp) rfl
    · simp only [if_neg hnext]
      refine (committed_of_pollDone rfl).trans ((switches_of_count hn).trans ?_)
      rw [switches_of_count hn] at hlt
      cases hi.symm.trans hj
      omega
  case pollDone => exact pollDone_bufferInv h.buffer (hdue _ rfl) rfl rfl rfl rfl rfl rfl

/-! ### The sequencer -/

/-- R103: the bits of ACC after one more sample. -/
theorem acc_after_shift {j : Fin 8} (hacc : ∀ b : Fin 8, s.acc[b] ≠ none ↔ 8 ≤ j.val + b.val) (b : Fin 8) :
    (s.acc.set (accPlace j).val (some s.serialDraw) (accPlace j).isLt)[b] ≠ none ↔ 8 ≤ j.val + 1 + b.val := by
  rw [getElem_set_accPlace]
  split_ifs with hb
  · simp; omega
  · rw [hacc]; omega

/-- R103: after the sample ACC is filled one bit further down. -/
theorem shiftBit_seqInv (h : s.SeqInv) (hm : s.mstep = 0x4) (he : Effect s .shiftBit t) : t.SeqInv := by
  obtain ⟨k, hk, hlt⟩ := h.byteIndex (.inl hm)
  have hraw (m : Nat) : entryAt s.raw m ≠ none ↔ m < k := rawFilled_of_shifting (.inl hm) hk ▸ h.rawBytes m
  have hphase := h.phase_of_mstep hm (by decide)
  have hcode := h.code_eq_none (by simp [hm])
  have hidx := h.idx_eq_none (by simp [hm])
  cases he
  case shiftBit j hj =>
    have hacc := acc_after_shift (bitsFilled_of_shiftBit hm hj ▸ h.accBits (.inl hm))
    by_cases hnext : j.val < 7
    · simp only [if_pos hnext]
      refine seqInv_of_shifting (.inl rfl) hphase hk hlt hraw nofun (fun b => ?_) hcode hidx
      have hval : (j + 1).val = j.val + 1 := Fin.val_add_one_of_lt' (by omega)
      rw [bitsFilled_of_shiftBit rfl rfl, hacc, hval]
    · simp only [if_neg hnext]
      refine seqInv_of_shifting (.inr rfl) hphase hk hlt hraw nofun (fun b => ?_) hcode hidx
      rw [bitsFilled_of_storeByte rfl, hacc]
      omega
  case fault he _ => cases he

/-- R104: after the byte RAW is filled one entry further. -/
theorem storeByte_seqInv (h : s.Inv) (hm : s.mstep = 0x5) (he : Effect s .storeByte t) : t.SeqInv := by
  obtain ⟨k, hk, hlt⟩ := h.seq.byteIndex (.inr hm)
  have hraw (m : Nat) : entryAt s.raw m ≠ none ↔ m < k := rawFilled_of_shifting (.inr hm) hk ▸ h.seq.rawBytes m
  have hphase := h.seq.phase_of_mstep hm (by decide)
  have hcode := h.seq.code_eq_none (by simp [hm])
  have hidx := h.seq.idx_eq_none (by simp [hm])
  obtain ⟨n, hn, hswitches, -, hmax, -⟩ := h.count_of_configured (h.configured_of_busy (by simp [hm]))
  have hlen : k < s.raw.length := by rw [h.shape.rawLength, h.shape.legal.bytes]; omega
  cases he
  case storeByte b n' k' hb hk' hn' =>
    cases hk.symm.trans hk'
    cases hn.symm.trans hn'
    have hraw' (m : Nat) : entryAt (setEntry s.raw k b) m ≠ none ↔ m < k + 1 := by
      rw [entryAt_setEntry hlen]
      split_ifs with hmk
      · simp [hmk]
      · rw [hraw]; omega
    by_cases hnext : k + 1 < n.toNat / 2
    · simp only [if_pos hnext]
      exact seqInv_of_byteStart rfl hphase rfl (hswitches ▸ hnext) hraw' rfl rfl hcode hidx
    · simp only [if_neg hnext]
      have hlast : k + 1 = s.switches / 2 := by omega
      exact seqInv_of_clearChg rfl rfl (hlast ▸ hraw') hcode hidx
  case fault he _ => cases he

/-- R130, R140, R142: the index a decoder gives is one of its type's. -/
theorem decode_seqInv (h : s.SeqInv) {id c : Nibble} {f : Nibble → Nibble} (hm : s.mstep = id) (hc : s.code = some c)
    (hid : id = 0x8 ∨ id = 0x9 ∨ id = 0xA) (hf : ∀ ty, decoderFor ty = some id → (f c).toNat < ty) :
    { s with idx := some (f c), code := none, mstep := 0xB }.SeqInv := by
  have hlow : 0x7 ≤ s.mstep.toNat := by rw [hm]; obtain rfl | rfl | rfl := hid <;> decide
  have hhigh : s.mstep.toNat ≤ 0xB := by rw [hm]; obtain rfl | rfl | rfl := hid <;> decide
  have hphase : phaseOfMicro id = .decoding := by obtain rfl | rfl | rfl := hid <;> rfl
  obtain ⟨i, hi, hlt⟩ := h.switchIndex hlow hhigh
  refine seqInv_of_decoding (by simp) (by simp) ((h.phase_of_mstep hm ?_).trans hphase) (h.raw_of_decoding (by omega)) hi hlt
    (h.flag hlow) (by simp) (by simp) (by simp) fun x ty hx hty => ?_
  · obtain rfl | rfl | rfl := hid <;> decide
  · cases hx
    have hdecoder := h.decoder i hi (by simp [hc])
    rw [show entryAt s.type i = some ty from hty, hm] at hdecoder
    exact hf ty hdecoder

/-- R163: the next switch, or after the last one POLL_DONE. -/
theorem compareCommit_seqInv (h : s.Inv) (hm : s.mstep = 0xB) (he : Effect s .compareCommit t) : t.SeqInv := by
  obtain ⟨i, hi, hlt⟩ := h.seq.switchIndex (by simp [hm]) (by simp [hm])
  have hraw := h.seq.raw_of_decoding (by simp [hm])
  have hcode := h.seq.code_eq_none (by simp [hm])
  cases he
  case compareCommit x i' old n hx hi' hold hn =>
    cases hi.symm.trans hi'
    have hchg : chgAfter (entryChanged (storedIndex s.params x) old) s.chg ≠ none := by
      rw [chgAfter_entryChanged]
      split_ifs
      · exact h.seq.flag (by simp [hm])
      · simp
    by_cases hnext : i + 1 < n.toNat
    · simp only [if_pos hnext]
      exact seqInv_of_decoding (by simp) (by simp) rfl hraw rfl (switches_of_count hn ▸ hnext) hchg (by simp [hcode]) (by simp [hcode])
        (by simp) (by simp)
    · simp only [if_neg hnext]
      exact seqInv_of_pollDone rfl rfl hraw hchg hcode rfl
  case fault he _ => cases he

/-- Each instruction leaves the sequencer at the stage its "next:" names. -/
theorem Effect.seqInv (he : Effect s i t) (h : s.Inv) (hdue : Due i s) : t.SeqInv := by
  have heffect := he
  cases he
  case fault | rdcur | rdcnt => exact (inv_withOutside h _ _ _ _ _ _).seq
  case initFails r q _ =>
    rw [initFail_eq]
    exact seqInv_of_free rfl rfl (entryAt_undefinedArray _) rfl rfl
  case initSucceeds r _ hpos htypes =>
    rw [initSucceed_eq]
    exact seqInv_of_free rfl rfl (entryAt_undefinedArray _) rfl rfl
  case poll hp =>
    have hm := h.seq.mstep_of_free ((busy_eq_false_iff _).2 (.inl hp))
    exact seqInv_of_latching (.inl rfl) rfl (h.seq.raw_eq_none (by simp [hm])) (h.seq.code_eq_none (by simp [hm]))
      (h.seq.idx_eq_none (by simp [hm]))
  case inhAssert | latchPulse =>
    have hm := hdue _ rfl
    exact seqInv_of_latching (by simp) (h.seq.phase_of_mstep hm (by decide)) (h.seq.raw_eq_none (by simp [hm]))
      (h.seq.code_eq_none (by simp [hm])) (h.seq.idx_eq_none (by simp [hm]))
  case inhRelease b hb =>
    have hm := hdue _ rfl
    obtain ⟨n, hn, hswitches, hlow, -⟩ := h.count_of_configured (h.configured_of_busy (by simp [hm]))
    have hraw := h.seq.raw_eq_none (by simp [hm])
    have hpos : 0 < s.switches / 2 := by omega
    exact seqInv_of_byteStart rfl rfl rfl hpos (fun m => by simp [hraw m]) rfl rfl (h.seq.code_eq_none (by simp [hm]))
      (h.seq.idx_eq_none (by simp [hm]))
  case shiftBit => exact shiftBit_seqInv h.seq (hdue _ rfl) heffect
  case storeByte => exact storeByte_seqInv h (hdue _ rfl) heffect
  case clearChg =>
    have hm := hdue _ rfl
    obtain ⟨n, hn, hswitches, hlow, -⟩ := h.count_of_configured (h.configured_of_busy (by simp [hm]))
    have hpos : 0 < s.switches := by omega
    exact seqInv_of_decoding (by simp) (by simp) (h.seq.phase_of_mstep hm (by decide)) (h.seq.raw_of_decoding (by simp [hm])) rfl hpos
      nofun (by simp [h.seq.code_eq_none, hm]) (by simp [h.seq.code_eq_none, hm]) (by simp [h.seq.idx_eq_none, hm])
      (by simp [h.seq.idx_eq_none, hm])
  case split k ty b id hi hb hty hid =>
    have hm := hdue _ rfl
    obtain ⟨k', hk', hlt⟩ := h.seq.switchIndex (by simp [hm]) (by simp [hm])
    cases hi.symm.trans hk'
    have hidx := h.seq.idx_eq_none (by simp [hm])
    have hdecoder : id = 0x8 ∨ id = 0x9 ∨ id = 0xA := (decoderFor_eq_some hid).imp And.right (.imp And.right And.right)
    have hrange : 0x7 ≤ id.toNat ∧ id.toNat ≤ 0xB ∧ id ≠ 0xB := by obtain rfl | rfl | rfl := hdecoder <;> decide
    obtain ⟨hlow, hhigh, hne⟩ := hrange
    exact seqInv_of_decoding hlow hhigh (h.seq.phase_of_mstep hm (by decide)) (h.seq.raw_of_decoding (by simp [hm])) hi hlt
      (h.seq.flag (by simp [hm])) (iff_of_true nofun hdecoder) (by simp [hty, hid]) (iff_of_false (not_not.2 hidx) hne)
      (by simp [hidx])
  case decodeGray c hc =>
    refine decode_seqInv h.seq (hdue _ rfl) hc (by simp) fun ty hty => ?_
    obtain ⟨rfl, -⟩ | ⟨-, hid⟩ | ⟨-, hid⟩ := decoderFor_eq_some hty
    · exact (grayIndex c).isLt
    all_goals exact absurd hid (by decide)
  case decodeLut8 c hc =>
    refine decode_seqInv h.seq (hdue _ rfl) hc (by simp) fun ty hty => ?_
    obtain ⟨-, hid⟩ | ⟨rfl, -⟩ | ⟨-, hid⟩ := decoderFor_eq_some hty
    case inr.inl => exact lut8Index_lt c
    all_goals exact absurd hid (by decide)
  case decodeLut12 c hc =>
    refine decode_seqInv h.seq (hdue _ rfl) hc (by simp) fun ty hty => ?_
    obtain ⟨-, hid⟩ | ⟨-, hid⟩ | ⟨rfl, -⟩ := decoderFor_eq_some hty
    case inr.inr => exact lut12Index_lt c
    all_goals exact absurd hid (by decide)
  case compareCommit => exact compareCommit_seqInv h (hdue _ rfl) heffect
  case pollDone =>
    have hm := hdue _ rfl
    exact seqInv_of_free rfl rfl (entryAt_undefinedArray _) (h.seq.code_eq_none (by simp [hm])) (h.seq.idx_eq_none (by simp [hm]))

/-- Every instruction that is due keeps the invariant. -/
theorem Effect.inv (he : Effect s i t) (h : s.Inv) (hdue : Due i s) : t.Inv :=
  ⟨he.shapeInv h.shape, he.configInv h hdue, he.bufferInv h hdue, he.seqInv h hdue, he.lineInv h hdue⟩

end

end Sys2Proof.Machine
end

section
/-!
PROOF. The invariant along the steps of the block: it holds after power-on reset, every step keeps it, and in its states nothing stops the
block (R201) and PHASE moves as R169 lists.
-/

namespace Sys2Proof.Machine

/-! ### Power-on reset -/

/-- R230: nothing is configured, and no element holds a value. -/
theorem resetWith_inv {ps : Params} (hlegal : ps.Legal) : (State.resetWith ps).Inv where
  shape := ⟨hlegal, undefinedArray_length _, undefinedArray_length _, undefinedArray_length _, undefinedArray_length _⟩
  config := ⟨nofun, iff_of_true rfl rfl, iff_of_true rfl rfl, nofun, fun i _ => entryAt_undefinedArray _ i, nofun,
    fun i _ => entryAt_undefinedArray _ i⟩
  buffer := ⟨fun _ => .inl rfl, fun i v t hv => absurd hv (by simp [(resetWith_arrays ps).2.1]), nofun, .inl nofun⟩
  seq := seqInv_of_free rfl rfl (entryAt_undefinedArray _) rfl rfl
  lines := ⟨fun hp => absurd rfl hp, fun hp => absurd rfl hp, nofun⟩

/-- Settles O51: the defaults are one of the admitted instantiations. -/
theorem resetSatisfiesInvariant : Obligations.ResetSatisfiesInvariant :=
  ⟨resetWith_inv default_legal, fun _ => resetWith_inv⟩

theorem powerOn_inv {s : State} (h : s.params.Legal) (rest : List HostInput) : (s.powerOn rest).Inv :=
  inv_withOutside (resetWith_inv h) _ _ _ _ _ _

/-! ### Every step keeps the invariant -/

section
variable {s t : State}

theorem inv_withHost (h : s.Inv) (host : List HostInput) : (s.withHost host).Inv := inv_withOutside h _ _ _ _ _ _

/-- What an instruction decoded from a code is due: a command always, a micro-step where the sequencer is at it. -/
theorem due_of_decode {ps : Params} {e : Encoded} {i : Instr} (hd : decode ps e = .ok i) (he : ∀ id, e = .micro id → s.mstep = id) :
    Due i s := by
  intro id hid
  cases e with
  | command p => cases (decodeCommand_hostIssuable hd).symm.trans (hostIssuable_eq_false_of_encode hid)
  | micro id' =>
    cases (decodeMicro_ok hd).1.symm.trans hid
    exact he id rfl

theorem eq_of_unlessFaulted {turn u : Turn} (h : s.unlessFaulted turn = u) (hne : ∀ f, u ≠ .halted f) : turn = u := by
  unfold State.unlessFaulted at h
  split at h
  · exact absurd h.symm (hne _)
  · exact h

theorem ownTurn_cases (s : State) : s.ownTurn = .run (.micro s.mstep) s ∨ s.ownTurn = .wait s := by
  unfold State.ownTurn
  split
  · exact .inl rfl
  · exact .inr rfl

/-- A turn other than power-on reset, in a state without a recorded fault: a command, or the block's own turn with at most the host's
inputs changed. -/
theorem fetch_turn {turn : Turn} (h : fetch s = turn) (hne : ∀ f, turn ≠ .halted f) :
    (∃ rest, s.host = .powerOn :: rest ∧ turn = .reset (s.powerOn rest)) ∨
      (∃ p host, turn = .run (.command p) (s.withHost host)) ∨ ∃ host, turn = (s.withHost host).ownTurn := by
  unfold fetch at h
  split at h
  case h_1 rest hh => exact .inl ⟨rest, hh, h.symm⟩
  all_goals have hturn := eq_of_unlessFaulted h hne
  case h_2 p rest hh => exact .inr (.inl ⟨p, rest, hturn.symm⟩)
  case h_3 p rest hh =>
    split at hturn
    · exact .inr (.inr ⟨s.host, hturn.symm⟩)
    · exact .inr (.inl ⟨p, rest, hturn.symm⟩)
  case h_4 rest hh => exact .inr (.inr ⟨rest, hturn.symm⟩)
  case h_5 hh => exact .inr (.inr ⟨s.host, hturn.symm⟩)

theorem fetch_reset (h : fetch s = .reset t) : ∃ rest, s.host = .powerOn :: rest ∧ t = s.powerOn rest := by
  obtain ⟨rest, hh, hturn⟩ | ⟨p, host, hturn⟩ | ⟨host, hturn⟩ := fetch_turn h nofun
  · cases hturn; exact ⟨rest, hh, rfl⟩
  · cases hturn
  · obtain hown | hown := ownTurn_cases (s.withHost host) <;> cases hturn.trans hown

theorem fetch_wait (h : fetch s = .wait t) : ∃ host, t = s.withHost host := by
  obtain ⟨rest, hh, hturn⟩ | ⟨p, host, hturn⟩ | ⟨host, hturn⟩ := fetch_turn h nofun
  · cases hturn
  · cases hturn
  · obtain hown | hown := ownTurn_cases (s.withHost host) <;> cases hturn.trans hown
    exact ⟨host, rfl⟩

/-- Everything a step can do: a power-on reset, a wait or a reserved word beside which only the host's inputs change, or an instruction
that is due. -/
theorem step_next (h : step s = .next t) :
    (∃ rest, s.host = .powerOn :: rest ∧ t = s.powerOn rest) ∨ (∃ host, t = s.withHost host) ∨
      (∃ host w, t = (s.withHost host).raiseFault .reservedOp w) ∨
      ∃ i host, Due i (s.withHost host) ∧ Effect (s.withHost host) i t := by
  obtain hreset | hwait | ⟨e, u, hfetch, hrun⟩ := step_cases h
  · exact .inl (fetch_reset hreset)
  · exact .inr (.inl (fetch_wait hwait))
  obtain ⟨-, hturn⟩ := fetch_run hfetch
  obtain ⟨host, rfl, he⟩ : ∃ host, u = s.withHost host ∧ ∀ id, e = .micro id → s.mstep = id := by
    obtain ⟨p, rest, rfl, rfl, -⟩ | ⟨-, rfl, rest, rfl⟩ := hturn
    · exact ⟨rest, rfl, nofun⟩
    · exact ⟨rest, rfl, fun _ hid => Encoded.micro.inj hid⟩
  obtain ⟨i, hd, hexec⟩ | ⟨w, -, rfl⟩ := runCode_next hrun
  · exact .inr (.inr (.inr ⟨i, host, due_of_decode hd he, exec_effect hexec⟩))
  · exact .inr (.inr (.inl ⟨host, w, rfl⟩))

/-- Settles O52: an instruction that is due keeps the invariant, and the other steps change nothing it speaks of or reset the block. -/
theorem everyStepKeepsInvariant : Obligations.EveryStepKeepsInvariant := by
  intro s t h hstep
  obtain ⟨rest, -, rfl⟩ | ⟨host, rfl⟩ | ⟨host, w, rfl⟩ | ⟨i, host, hdue, he⟩ := step_next hstep
  · exact powerOn_inv h.shape.legal rest
  · exact inv_withHost h host
  · exact inv_withOutside h _ _ _ _ _ _
  · exact he.inv (inv_withHost h host) hdue

/-! ### Nothing stops the block (R201) -/

/-- R24: a running poll's block knows whether it has an inhibit line. -/
theorem State.Inv.hasInh_of_busy (h : s.Inv) (hm : s.mstep ≠ 0x0) : ∃ b, s.hasInh = some b := by
  obtain ⟨n, hn, -⟩ := h.count_of_configured (h.configured_of_busy hm)
  exact Option.ne_none_iff_exists'.1 (mt h.config.inhibitCount.1 (by simp [hn]))

/-- What STORE_BYTE reads. -/
theorem State.Inv.storeByte_reads (h : s.Inv) (hm : s.mstep = 0x5) :
    ∃ v k n, accByte s.acc = some v ∧ s.k = some k ∧ s.count = some n ∧ k < n.toNat / 2 := by
  obtain ⟨k, hk, hlt⟩ := h.seq.byteIndex (.inr hm)
  obtain ⟨n, hn, hswitches, -⟩ := h.count_of_configured (h.configured_of_busy (by simp [hm]))
  obtain ⟨v, hv⟩ := accByte_some fun b => (h.seq.accBits (.inr hm) b).2 (by rw [bitsFilled_of_storeByte hm]; omega)
  exact ⟨v, k, n, hv, hk, hn, hswitches ▸ hlt⟩

/-- What the micro-steps of switch I read, beside the code and the index they hand on. -/
theorem State.Inv.switch_reads (h : s.Inv) (hlow : 0x7 ≤ s.mstep.toNat) (hhigh : s.mstep.toNat ≤ 0xB) :
    ∃ i b ty old n, s.i = some i ∧ i < n.toNat ∧ entryAt s.raw (pairByte i) = some b ∧
      (entryAt s.type i = some ty ∧ (ty = 0x08 ∨ ty = 0x0C ∨ ty = 0x10)) ∧ entryAt s.prev i = some old ∧ s.count = some n := by
  obtain ⟨i, hi, hlt⟩ := h.seq.switchIndex hlow hhigh
  obtain ⟨n, hn, hswitches, -, -, heven⟩ :=
    h.count_of_configured (h.configured_of_busy fun hm => by simp [hm] at hlow)
  obtain ⟨b, hb⟩ := Option.ne_none_iff_exists'.1 ((h.seq.raw_of_decoding (by omega) (pairByte i)).2 (by rw [pairByte]; omega))
  obtain ⟨ty, hty, hmem⟩ := h.config.typeBelow i hlt
  obtain ⟨old, hold⟩ := h.config.prevBelow i hlt
  exact ⟨i, b, ty, old, n, hi, hswitches ▸ hlt, hb, ⟨hty, (h.shape.legal.typesDecoded ty hmem).1⟩, hold, hn⟩

/-- R108: every element a micro-step reads holds a value when it is due. -/
theorem State.Inv.exec_micro (h : s.Inv) {i : Instr} (he : encode i = .micro s.mstep) : ∃ t, exec i s = .next t := by
  have hm {id : Nibble} (hid : Encoded.micro id = Encoded.micro s.mstep) : s.mstep = id := (Encoded.micro.inj hid).symm
  cases i
  case init | poll | rdcur | rdcnt => cases he
  case latchPulse | clearChg => exact ⟨_, rfl⟩
  case inhAssert =>
    obtain ⟨b, hb⟩ := h.hasInh_of_busy (by simp [hm he])
    exact ⟨_, execInhAssert_eq hb⟩
  case inhRelease =>
    obtain ⟨b, hb⟩ := h.hasInh_of_busy (by simp [hm he])
    exact ⟨_, execInhRelease_eq hb⟩
  case shiftBit =>
    obtain ⟨j, hj⟩ := Option.ne_none_iff_exists'.1 (h.seq.bitIndex (hm he))
    by_cases hnext : j.val < 7
    · exact ⟨_, execShiftBit_of_lt hj hnext⟩
    · exact ⟨_, execShiftBit_of_not_lt hj hnext⟩
  case storeByte =>
    obtain ⟨v, k, n, hv, hk, hn, -⟩ := h.storeByte_reads (hm he)
    by_cases hnext : k + 1 < n.toNat / 2
    · exact ⟨_, execStoreByte_of_lt hv hk hn hnext⟩
    · exact ⟨_, execStoreByte_of_not_lt hv hk hn hnext⟩
  case split =>
    obtain ⟨i, b, ty, -, -, hi, -, hb, ⟨hty, hlegal⟩, -⟩ := h.switch_reads (by simp [hm he]) (by simp [hm he])
    exact ⟨_, (execSplit_eq hi hb hty).trans (gotoDecoder_of_decoderFor _ (decoderFor_of_legal hlegal))⟩
  case decodeGray | decodeLut8 | decodeLut12 =>
    obtain ⟨c, hc⟩ := Option.ne_none_iff_exists'.1 (h.seq.codeHeld.2 (by simp [hm he]))
    exact ⟨_, decodeWith_eq _ hc⟩
  case compareCommit =>
    obtain ⟨x, hx⟩ := Option.ne_none_iff_exists'.1 (h.seq.idxHeld.2 (hm he))
    obtain ⟨i, -, -, old, n, hi, -, -, -, hold, hn⟩ := h.switch_reads (by simp [hm he]) (by simp [hm he])
    by_cases hnext : i + 1 < n.toNat
    · exact ⟨_, execCompareCommit_of_lt hx hi hold hn hnext⟩
    · exact ⟨_, execCompareCommit_of_not_lt hx hi hold hn hnext⟩
  case pollDone =>
    obtain ⟨c, hc⟩ := Option.ne_none_iff_exists'.1 (h.seq.flag (by simp [hm he]))
    exact ⟨_, execPollDone_eq hc⟩

/-- R160: in a busy phase the sequencer's micro-step answers a next state. -/
theorem State.Inv.runCode_micro (h : s.Inv) (hb : s.phase.busy = true) : ∃ t, runCode (.micro s.mstep) s = .next t := by
  have hne : s.mstep ≠ 0x0 := fun hm => by simp [h.seq.rest.1 hm] at hb
  obtain ⟨i, hd⟩ := exists_decodeMicro hne (h.seq.phase hne).1
  rw [runCode_ok (e := .micro s.mstep) s hd]
  exact h.exec_micro (decodeMicro_ok hd).1

theorem whenConfigured_answers {c : CmdWord} {go : Result} (hgo : s.phase = .idle → ∃ t, go = .next t) :
    ∃ t, whenConfigured s c go = .next t := by
  cases hb : s.phase.busy
  · obtain hp | hp := (busy_eq_false_iff _).1 hb
    · rw [whenConfigured_idle hp]
      exact hgo hp
    · exact ⟨_, whenConfigured_of_unconfigured hp⟩
  · exact ⟨_, whenConfigured_of_busy hb⟩

/-- R210: every command answers a next state, which is a fault's where it is not accepted. -/
theorem State.Inv.exec_command (h : s.Inv) {i : Instr} (hi : i.hostIssuable = true) : ∃ t, exec i s = .next t := by
  have hcount (hp : s.phase = .idle) : ∃ n, s.count = some n := by
    obtain ⟨n, hn, -⟩ := h.count_of_configured (by simp [hp])
    exact ⟨n, hn⟩
  cases i
  case init r =>
    cases hb : s.phase.busy
    · exact ⟨_, whenFree_of_free hb⟩
    · exact ⟨_, whenFree_of_busy hb⟩
  case poll => exact whenConfigured_answers fun _ => ⟨_, rfl⟩
  case rdcur i =>
    refine whenConfigured_answers fun hp => ?_
    obtain ⟨n, hn⟩ := hcount hp
    rw [hn, need_some]
    split
    · exact ⟨_, rfl⟩
    · split <;> exact ⟨_, rfl⟩
  case rdcnt =>
    refine whenConfigured_answers fun hp => ?_
    obtain ⟨n, hn⟩ := hcount hp
    exact ⟨_, by rw [hn, need_some]⟩
  all_goals cases hi

/-- R210: a command presented with a record of R75's form answers a next state. -/
theorem State.Inv.runCode_command (h : s.Inv) {p : Presented} (hr : p.record.wellFormed s.params = true) :
    ∃ t, runCode (.command p) s = .next t := by
  by_cases hw : NamesCommand p.word
  · obtain ⟨i, q, hrun, he⟩ := runCode_of_namesCommand (s := s) hw hr
    obtain ⟨t, ht⟩ := h.exec_command (hostIssuable_of_encode he)
    exact ⟨t, hrun.trans ht⟩
  · exact ⟨_, runCode_of_not_namesCommand hw⟩

/-- Settles O53: by the host's next input. -/
theorem invariantStatesAlwaysStep : Obligations.InvariantStatesAlwaysStep := by
  intro s h hf hr
  match hh : s.host with
  | .powerOn :: rest => exact ⟨_, step_powerOn hh⟩
  | .present p :: rest =>
    rw [step_present hf hh]
    exact (inv_withHost h rest).runCode_command (hr _ _ _ (.inl hh))
  | .issue p :: rest =>
    cases hb : s.phase.busy
    · rw [step_issue_of_free hf hh hb]
      exact (inv_withHost h rest).runCode_command (hr _ _ _ (.inr hh))
    · rw [step_issue_of_busy hf hh hb]
      exact h.runCode_micro hb
  | .pause :: rest =>
    cases hb : s.phase.busy
    · exact ⟨_, step_pause_of_free hf hh hb⟩
    · rw [step_pause_of_busy hf hh hb]
      exact (inv_withHost h rest).runCode_micro hb
  | [] =>
    cases hb : s.phase.busy
    · exact ⟨_, step_silent_of_free hf hh hb⟩
    · rw [step_silent_of_busy hf hh hb]
      exact h.runCode_micro hb

/-! ### How PHASE moves (R169) -/

/-- The moves of R169 but power-on reset. -/
def phaseMoves : List (Phase × Phase) :=
  [(.unconfigured, .idle), (.idle, .unconfigured), (.idle, .latching), (.latching, .shifting), (.shifting, .decoding),
    (.decoding, .compareAndCommit), (.compareAndCommit, .idle)]

/-- An instruction that is due leaves PHASE or moves it as R169 lists. -/
theorem Effect.phase_moves {i : Instr} (he : Effect s i t) (h : s.Inv) (hdue : Due i s) :
    t.phase = s.phase ∨ (s.phase, t.phase) ∈ phaseMoves := by
  have hphase {id : Nibble} (hid : encode i = .micro id) (hne : id ≠ 0x0) : s.phase = phaseOfMicro id :=
    h.seq.phase_of_mstep (hdue id hid) hne
  cases he
  case initFails r q hfree =>
    rw [initFail_eq]
    obtain hp | hp := (busy_eq_false_iff _).1 hfree <;> simp [hp, phaseMoves]
  case initSucceeds r hfree _ _ =>
    rw [initSucceed_eq]
    obtain hp | hp := (busy_eq_false_iff _).1 hfree <;> simp [hp, phaseMoves]
  case poll hp => simp [hp, phaseMoves]
  case inhRelease | pollDone =>
    have hp := hphase rfl (by decide)
    simp [hp, phaseMoves, phaseOfMicro]
  case storeByte | compareCommit =>
    have hp := hphase rfl (by decide)
    dsimp only
    split <;> simp [hp, phaseMoves, phaseOfMicro]
  all_goals exact .inl rfl

/-- Settles O55: a step is a power-on reset, leaves PHASE, or runs an instruction that is due. -/
theorem phaseTransitions : Obligations.PhaseTransitions := by
  intro s t h hstep
  obtain ⟨rest, hh, rfl⟩ | ⟨host, rfl⟩ | ⟨host, w, rfl⟩ | ⟨i, host, hdue, he⟩ := step_next hstep
  · exact .inr (.inl ⟨rfl, rest, hh⟩)
  · exact .inl rfl
  · exact .inl rfl
  · exact (he.phase_moves (inv_withHost h host) hdue).imp id .inr

/-! ### Between polls (R38) -/

/-- Settles O54: in Idle no switch is before the sequencer's place, so all of them hold entries as soon as one does. -/
theorem snapshotEqualsCurrentBetweenPolls : Obligations.SnapshotEqualsCurrentBetweenPolls := by
  rintro s h hp ⟨j, hj, hdecoded⟩ i hi
  have hm := h.seq.mstep_of_free ((busy_eq_false_iff _).2 (.inl hp))
  have hcommitted : s.committed = 0 := committed_of_lt (by simp [hm])
  have hcur : entryAt s.cur i ≠ none := by
    obtain hnone | hall := h.buffer.restAlike
    · exact absurd (hnone j (by omega) hj) hdecoded
    · exact hall i (by omega) hi
  obtain ⟨v, hv⟩ := Option.ne_none_iff_exists'.1 hcur
  have hsnapshot : entryAt s.cur i = entryAt s.prev i := (h.buffer.snapshot i).resolve_right fun hno => hcur hno.1
  exact ⟨hsnapshot.symm, v, hv, curEntry_le h hi hv⟩

end

end Sys2Proof.Machine
end

section
/-!
PROOF. The serial frame (R52 to R55, R103, R220): the answers that come after some have been taken, a byte of them, and eight SHIFT_BITs.
-/

namespace Sys2Proof.Machine

/-! ### The environment's answers (R220) -/

theorem serialDraw_eq (s : State) : s.serialDraw = s.serialAt 0 := by
  cases h : s.serial <;> simp [State.serialDraw, State.serialAt, h]

/-- After `d` draws the answers to come are those from the `d`-th on. -/
theorem serialAt_of_drawn {s t : State} {d : Nat} (hserial : t.serial = s.serial.drop d) (hdraws : t.draws = s.draws + d) (m : Nat) :
    t.serialAt m = s.serialAt (d + m) := by
  simp only [State.serialAt, hserial, hdraws, List.getD_eq_getElem?_getD, List.getElem?_drop, Nat.add_assoc]

/-- The events of SHIFT_BITs that sample the given bits (R103). -/
def shiftEvents (bits : List Bit) : List Event :=
  bits.flatMap fun b => [.sample b, .drive .clkO true, .settle, .drive .clkO false, .settle]

/-- The next `m` samples. -/
def State.samples (s : State) (m : Nat) : List Bit := (List.range m).map s.serialAt

theorem samples_add (s : State) (m n : Nat) : s.samples (m + n) = s.samples m ++ (List.range n).map fun i => s.serialAt (m + i) := by
  simp [State.samples, List.range_add]

theorem shiftEvents_append (xs ys : List Bit) : shiftEvents (xs ++ ys) = shiftEvents xs ++ shiftEvents ys := List.flatMap_append

theorem samples_succ (s : State) (m : Nat) : s.samples (m + 1) = s.samples m ++ [s.serialAt m] := by
  simp [State.samples, List.range_succ]

/-! ### SHIFT_BIT after SHIFT_BIT (R103) -/

/-- A state with J at 0 after `m` SHIFT_BITs, for `m` up to 8. -/
def State.afterShifts (s : State) (m : Nat) : State :=
  { s with
    acc := Vector.ofFn fun b => if 8 ≤ b.val + m then some (s.serialAt (7 - b.val)) else s.acc[b]
    j := some ⟨min m 7, by omega⟩
    clkO := if m = 0 then s.clkO else .driven false
    hist := s.hist ++ shiftEvents (s.samples m)
    serial := s.serial.drop m
    draws := s.draws + m
    mstep := if m = 0 then s.mstep else if m < 8 then 0x4 else 0x5 }

theorem afterShifts_zero {s : State} (hj : s.j = some 0) : s.afterShifts 0 = s := by
  have hacc : (Vector.ofFn fun b : Fin 8 => if 8 ≤ b.val + 0 then some (s.serialAt (7 - b.val)) else s.acc[b]) = s.acc := by
    ext i hi
    simp [Nat.not_le.2 hi]
  simp only [State.afterShifts, hacc, State.samples, shiftEvents]
  simp [← hj]

@[simp] theorem afterShifts_acc_getElem (s : State) (m : Nat) (b : Fin 8) :
    (s.afterShifts m).acc[b] = if 8 ≤ b.val + m then some (s.serialAt (7 - b.val)) else s.acc[b] := by
  simp [State.afterShifts]

/-- R103: the sample of J is the answer that goes to ACC[7 - J]. -/
theorem afterShifts_acc_set (s : State) {m : Nat} {j : Fin 8} (hj : j.val = m) :
    (s.afterShifts m).acc.set (accPlace j).val (some (s.serialAt m)) (accPlace j).isLt = (s.afterShifts (m + 1)).acc := by
  ext1 b hb
  have hset := getElem_set_accPlace (s.afterShifts m).acc j ⟨b, hb⟩ (some (s.serialAt m))
  have hnext := afterShifts_acc_getElem s (m + 1) ⟨b, hb⟩
  rw [afterShifts_acc_getElem] at hset
  simp only [Fin.getElem_fin] at hset hnext
  rw [hset, hnext]
  by_cases hlast : b + j.val = 7
  · rw [if_pos hlast, if_pos (by omega), show 7 - b = m by omega]
  · rw [if_neg hlast]
    exact if_congr (by omega) rfl rfl

theorem execShiftBit_afterShifts (s : State) {m : Nat} (hm : m < 8) :
    execShiftBit (s.afterShifts m) = .next (s.afterShifts (m + 1)) := by
  have hdraw : (s.afterShifts m).serialDraw = s.serialAt m := by
    rw [serialDraw_eq, serialAt_of_drawn (s := s) (d := m) rfl rfl, Nat.add_zero]
  have hplace : (⟨min m 7, by omega⟩ : Fin 8).val = m := Nat.min_eq_left (by omega)
  have hacc := afterShifts_acc_set s hplace
  have hhist : s.hist ++ shiftEvents (s.samples (m + 1)) =
      s.hist ++ shiftEvents (s.samples m) ++ [.sample (s.serialAt m), .drive .clkO true, .settle, .drive .clkO false, .settle] := by
    rw [samples_succ, shiftEvents_append, List.append_assoc]; rfl
  by_cases hnext : m < 7
  · rw [execShiftBit_of_lt (j := ⟨min m 7, by omega⟩) rfl (hplace.symm ▸ hnext), shiftIn_eq, hdraw, hacc]
    have hj : (⟨min m 7, by omega⟩ : Fin 8) + 1 = ⟨min (m + 1) 7, by omega⟩ := by ext; simp [Fin.val_add]; omega
    simp [State.afterShifts, State.goto, hhist, hj, hnext, Nat.add_assoc]
  · rw [execShiftBit_of_not_lt (j := ⟨min m 7, by omega⟩) rfl (hplace.symm ▸ hnext), shiftIn_eq, hdraw, hacc]
    obtain rfl : m = 7 := by omega
    simp [State.afterShifts, State.goto, hhist, Nat.add_assoc]

/-- R103: the bits of ACC after the eighth SHIFT_BIT. -/
theorem afterShifts_eight_acc (s : State) (b : Fin 8) : (s.afterShifts 8).acc[b] = some (s.serialAt (7 - b.val)) := by
  rw [afterShifts_acc_getElem, if_pos (Nat.le_add_left 8 b.val)]

/-- R103: a SHIFT_BIT keeps the bits that are defined and defines one more. -/
theorem shiftBit_acc_ne_none {s t : State} {j : Fin 8} (hj : s.j = some j) (h : exec .shiftBit s = .next t)
    (hacc : ∀ b : Fin 8, 7 < b.val + j.val → s.acc[b] ≠ none) (b : Fin 8) (hb : 7 ≤ b.val + j.val) : t.acc[b] ≠ none := by
  cases exec_effect h
  case shiftBit j' hj' =>
    cases hj.symm.trans hj'
    rw [getElem_set_accPlace]
    split_ifs with hplace
    · nofun
    · exact hacc b (by omega)
  case fault he _ => cases he

/-- Settles O12: one step by the place it writes; a whole byte as the states after one to eight SHIFT_BITs. -/
theorem eightShiftsDefineAccumulator : Obligations.EightShiftsDefineAccumulator := by
  refine ⟨fun s t j hj h hacc b hb => shiftBit_acc_ne_none hj h hacc b hb, fun s hj => ?_⟩
  have hshift (m : Nat) (hm : m < 8) : exec .shiftBit (s.afterShifts m) = .next (s.afterShifts (m + 1)) :=
    execShiftBit_afterShifts s hm
  have hfirst := hshift 0 (by omega)
  rw [afterShifts_zero hj] at hfirst
  exact ⟨_, _, _, _, _, _, _, _, hfirst, hshift 1 (by omega), hshift 2 (by omega), hshift 3 (by omega), hshift 4 (by omega),
    hshift 5 (by omega), hshift 6 (by omega), hshift 7 (by omega), rfl, afterShifts_eight_acc s⟩

end Sys2Proof.Machine
end

section
/-!
PROOF. Runs of an undisturbed poll: a run cut in two, and a step that is the sequencer's micro-step while the host is silent or waits (R160,
R240).
-/

namespace Sys2Proof.Machine

theorem runFor_succ {s t : State} (h : step s = .next t) (n : Nat) : runFor (n + 1) s = runFor n t := by
  rw [runFor, h]

theorem runFor_add {s t : State} {m : Nat} (h : runFor m s = .next t) (n : Nat) : runFor (m + n) s = runFor n t := by
  induction m generalizing s with
  | zero => cases h; rw [Nat.zero_add]
  | succ m ih =>
    cases hstep : step s with
    | next u => rw [Nat.succ_add, runFor_succ hstep, ih ((runFor_succ hstep m).symm.trans h)]
    | fault f => rw [runFor, hstep] at h; cases h
    | refused r => rw [runFor, hstep] at h; cases h

theorem runFor_trans {s t : State} {m n : Nat} {r : Result} (h : runFor m s = .next t) (h' : runFor n t = r) : runFor (m + n) s = r :=
  (runFor_add h n).trans h'

theorem runFor_one (s : State) : runFor 1 s = step s := by
  rw [runFor]
  cases step s <;> rfl

/-- The invariant along a run. -/
theorem runFor_inv {s t : State} {n : Nat} (hs : s.Inv) (h : runFor n s = .next t) : t.Inv := by
  induction n generalizing s with
  | zero => cases h; exact hs
  | succ n ih =>
    cases hstep : step s with
    | next u => exact ih (everyStepKeepsInvariant s u hs hstep) ((runFor_succ hstep n).symm.trans h)
    | fault f => rw [runFor, hstep] at h; cases h
    | refused r => rw [runFor, hstep] at h; cases h

/-- No fault is recorded, and the host presents nothing: it is silent, or waits with an issued command. -/
def State.Undisturbed (s : State) : Prop :=
  s.fault = none ∧ (s.host = [] ∨ ∃ p rest, s.host = .issue p :: rest)

theorem step_of_undisturbed {s : State} {i : Instr} (hu : s.Undisturbed) (hb : s.phase.busy = true) (hd : decodeMicro s.mstep = .ok i) :
    step s = exec i s := by
  rw [← runCode_ok (e := .micro s.mstep) s hd]
  obtain ⟨hf, hsilent | ⟨p, rest, hwaits⟩⟩ := hu
  · exact step_silent_of_busy hf hsilent hb
  · exact step_issue_of_busy hf hwaits hb

/-- One micro-step at the start of a run. -/
theorem runFor_micro {n : Nat} {s t : State} {i : Instr} (hu : s.Undisturbed) (hb : s.phase.busy = true)
    (hd : decodeMicro s.mstep = .ok i) (he : exec i s = .next t) : runFor (n + 1) s = runFor n t :=
  runFor_succ ((step_of_undisturbed hu hb hd).trans he) n

end Sys2Proof.Machine
end

section
/-!
PROOF. The sampling phases of an undisturbed poll (R100 to R108): the state after so many bytes, each of eight SHIFT_BITs and a STORE_BYTE.
-/

namespace Sys2Proof.Machine

/-! ### An array filled from its start -/

/-- An array whose entries below `m` are `f`'s. -/
def storeBelow {α : Type} (a : List (Option α)) (f : Nat → α) : Nat → List (Option α)
  | 0 => a
  | m + 1 => setEntry (storeBelow a f m) m (f m)

@[simp] theorem storeBelow_length {α : Type} (a : List (Option α)) (f : Nat → α) (m : Nat) : (storeBelow a f m).length = a.length := by
  induction m with
  | zero => rfl
  | succ m ih => rw [storeBelow, setEntry_length, ih]

theorem entryAt_storeBelow {α : Type} {a : List (Option α)} (f : Nat → α) {m : Nat} (hm : m ≤ a.length) (i : Nat) :
    entryAt (storeBelow a f m) i = if i < m then some (f i) else entryAt a i := by
  induction m with
  | zero => rfl
  | succ m ih =>
    rw [storeBelow, entryAt_setEntry (by rw [storeBelow_length]; omega), ih (by omega)]
    by_cases hi : i = m
    · simp [hi]
    · rw [if_neg hi]
      exact if_congr (by omega) rfl rfl

/-! ### One byte (R103, R104) -/

/-- R52, R53: byte `k` of the frame that begins with the next sample. -/
def State.byteAt (s : State) (k : Nat) : Byte :=
  byteOfBits (s.serialAt (8 * k)) (s.serialAt (8 * k + 1)) (s.serialAt (8 * k + 2)) (s.serialAt (8 * k + 3)) (s.serialAt (8 * k + 4))
    (s.serialAt (8 * k + 5)) (s.serialAt (8 * k + 6)) (s.serialAt (8 * k + 7))

/-- R52: the first of eight bits is bit 7 of their byte. -/
theorem byteOfBits_getLsbD_sub (f : Nat → Bit) {b : Nat} (hb : b < 8) :
    (byteOfBits (f 0) (f 1) (f 2) (f 3) (f 4) (f 5) (f 6) (f 7)).getLsbD b = f (7 - b) := by
  have hbits : [f 0, f 1, f 2, f 3, f 4, f 5, f 6, f 7] = (List.range 8).map f := rfl
  rw [byteOfBits, BitVec.getLsbD_ofBoolListBE, hbits]
  simp [hb, List.getElem?_range (show 7 - b < 8 by omega)]

theorem byteAt_getLsbD (s : State) (k : Nat) {b : Nat} (hb : b < 8) : (s.byteAt k).getLsbD b = s.serialAt (8 * k + (7 - b)) :=
  byteOfBits_getLsbD_sub (fun i => s.serialAt (8 * k + i)) hb

/-- A state at the first bit of byte 0, once it has received `k` bytes and is at the first bit of the next. -/
def State.atByte (s : State) (k : Nat) : State :=
  { s with
    raw := storeBelow s.raw s.byteAt k
    k := some k
    hist := s.hist ++ shiftEvents (s.samples (8 * k))
    serial := s.serial.drop (8 * k)
    draws := s.draws + 8 * k }

theorem atByte_serialAt (s : State) (k m : Nat) : (s.atByte k).serialAt m = s.serialAt (8 * k + m) := serialAt_of_drawn rfl rfl m

/-- The Shifting phase at the first bit of a byte (R102, R104), with the clock line at rest. -/
structure State.AtFirstBit (s : State) : Prop where
  undisturbed : s.Undisturbed
  phase : s.phase = .shifting
  mstep : s.mstep = 0x4
  bit : s.j = some 0
  acc : s.acc = accUndefined
  clock : s.clkO = .driven false

theorem State.AtFirstBit.atByte {s : State} (h : s.AtFirstBit) (k : Nat) : (s.atByte k).AtFirstBit :=
  ⟨h.undisturbed, h.phase, h.mstep, h.bit, h.acc, h.clock⟩

theorem runFor_afterShifts {s : State} (h : s.AtFirstBit) {m : Nat} (hm : m ≤ 8) : runFor m s = .next (s.afterShifts m) := by
  induction m with
  | zero => rw [afterShifts_zero h.bit]; rfl
  | succ m ih =>
    have hmstep : (s.afterShifts m).mstep = 0x4 := by simp [State.afterShifts, h.mstep, show m < 8 by omega]
    have hstep : step (s.afterShifts m) = exec .shiftBit (s.afterShifts m) :=
      step_of_undisturbed h.undisturbed (by rw [show (s.afterShifts m).phase = .shifting from h.phase]; rfl) (by rw [hmstep]; rfl)
    rw [runFor_add (ih (by omega)), runFor_one, hstep]
    exact execShiftBit_afterShifts s (by omega)

/-- R104: after eight SHIFT_BITs ACC reads as byte 0 of the frame. -/
theorem accByte_afterShifts (s : State) : accByte (s.afterShifts 8).acc = some (s.byteAt 0) := by
  refine accByte_eq_some fun b => ?_
  rw [afterShifts_eight_acc, byteAt_getLsbD s 0 b.isLt, Nat.mul_zero, Nat.zero_add]

theorem atByte_byteAt (s : State) (k : Nat) : (s.atByte k).byteAt 0 = s.byteAt k := by
  simp only [State.byteAt, atByte_serialAt, Nat.mul_zero, Nat.zero_add, Nat.add_zero]

theorem atByte_samples (s : State) (k m : Nat) : (s.atByte k).samples m = (List.range m).map fun i => s.serialAt (8 * k + i) := by
  rw [State.samples]
  exact List.map_congr_left fun i _ => atByte_serialAt s k i

/-- What a byte adds to the state: its eight samples and the entry of RAW. -/
theorem storeRaw_afterShifts {s : State} (h : s.AtFirstBit) (k : Nat) :
    ((s.atByte k).afterShifts 8).storeRaw k (s.byteAt k) = { s.atByte (k + 1) with k := some k, mstep := 0x5 } := by
  simp only [State.afterShifts, State.storeRaw, atByte_samples]
  simp [State.atByte, storeBelow, Nat.mul_succ, samples_add, shiftEvents_append, Nat.add_assoc, h.bit, h.acc, h.clock]

/-- R103, R104: one byte takes nine micro-steps, the last of which is STORE_BYTE. -/
theorem runFor_toStoreByte {s : State} (h : s.AtFirstBit) (k : Nat) :
    runFor 9 (s.atByte k) = execStoreByte ((s.atByte k).afterShifts 8) := by
  have hk := h.atByte k
  rw [runFor_add (runFor_afterShifts hk le_rfl) 1, runFor_one]
  exact step_of_undisturbed (i := .storeByte) hk.undisturbed
    (by rw [show ((s.atByte k).afterShifts 8).phase = .shifting from h.phase]; rfl) rfl

section
variable {s : State} (h : s.AtFirstBit) {n : Byte} (hn : s.count = some n) {k : Nat}
include h hn

/-- R104: before the last byte the next one begins. -/
theorem runFor_byte (hk : k + 1 < n.toNat / 2) : runFor 9 (s.atByte k) = .next (s.atByte (k + 1)) := by
  rw [runFor_toStoreByte h, execStoreByte_of_lt (accByte_afterShifts (s.atByte k)) rfl hn hk, atByte_byteAt, storeRaw_afterShifts h]
  simp [State.goto, State.atByte, h.mstep]

/-- R104: after the last byte the Decoding phase begins. -/
theorem runFor_lastByte (hk : ¬ k + 1 < n.toNat / 2) :
    runFor 9 (s.atByte k) = .next { s.atByte (k + 1) with k := some k, phase := .decoding, mstep := 0x6 } := by
  rw [runFor_toStoreByte h, execStoreByte_of_not_lt (accByte_afterShifts (s.atByte k)) rfl hn hk, atByte_byteAt, storeRaw_afterShifts h]
  rfl

end

theorem atByte_zero {s : State} (hk : s.k = some 0) : s.atByte 0 = s := by
  simp only [State.atByte, storeBelow]
  simp [← hk, State.samples, shiftEvents]

/-- R105: the bytes of the Shifting phase but the last. -/
theorem runFor_bytes {s : State} (h : s.AtFirstBit) {n : Byte} (hn : s.count = some n) (hk0 : s.k = some 0) {k : Nat}
    (hk : k < n.toNat / 2) : runFor (9 * k) s = .next (s.atByte k) := by
  induction k with
  | zero => rw [atByte_zero hk0]; rfl
  | succ k ih => rw [Nat.mul_succ, runFor_add (ih (by omega)), runFor_byte h hn hk]

end Sys2Proof.Machine
end

section
/-!
PROOF. The sampling phases as a whole (R78, R100 to R108): the state they leave, the frame in RAW and the events in HIST.
-/

namespace Sys2Proof.Machine

/-- The start of an undisturbed poll: the sequencer is at INH_ASSERT (R160). -/
structure State.PollBegins (s : State) : Prop where
  inv : s.Inv
  undisturbed : s.Undisturbed
  mstep : s.mstep = 0x1

/-! ### The Latching phase (R100 to R102) -/

/-- The events of the Latching phase: the latch pulse, inside the inhibit line's two where there is one. -/
def latchEvents (hasInh inhActive : Bit) : List Event :=
  (if hasInh then [.drive .inhO inhActive] else []) ++ [.drive .latchO false, .settle, .drive .latchO true, .settle] ++
    if hasInh then [.drive .inhO (!inhActive)] else []

/-- The state after the Latching phase. The lines end as they were. -/
def State.latched (s : State) (hasInh : Bit) : State :=
  { s with
    hist := s.hist ++ latchEvents hasInh s.params.inhActive
    phase := .shifting, k := some 0, j := some 0, acc := accUndefined, mstep := 0x4 }

section
variable {s : State} (h : s.PollBegins)
include h

theorem State.PollBegins.phase : s.phase = .latching := h.inv.seq.phase_of_mstep h.mstep (by decide)

theorem State.PollBegins.lines :
    s.latchO = .driven true ∧ s.clkO = .driven false ∧ (s.hasInh = some true → s.inhO = .driven (!s.params.inhActive)) := by
  have hp : s.phase ≠ .unconfigured := by simp [h.phase]
  refine ⟨h.inv.lines.latch hp, h.inv.lines.clock hp, fun hinh => ?_⟩
  simp [h.inv.lines.inhibit hinh, h.mstep]

theorem runFor_latching {hasInh : Bit} (hh : s.hasInh = some hasInh) : runFor 3 s = .next (s.latched hasInh) := by
  obtain ⟨hlatch, -, hinh⟩ := h.lines
  have hb : s.phase.busy = true := by rw [h.phase]; rfl
  refine Eq.trans (runFor_micro (n := 2) (i := .inhAssert) h.undisturbed hb (by rw [h.mstep]; rfl) (execInhAssert_eq hh)) ?_
  rw [driveInhibit_eq]
  refine Eq.trans (runFor_micro (n := 1) (i := .latchPulse) h.undisturbed hb rfl rfl) ?_
  rw [pulseLatch_eq]
  refine Eq.trans (runFor_micro (n := 0) (i := .inhRelease) h.undisturbed hb rfl (execInhRelease_eq hh)) ?_
  rw [driveInhibit_eq]
  cases hasInh
  · simp [runFor, State.latched, latchEvents, State.goto, State.startShifting, hlatch]
  · simp [runFor, State.latched, latchEvents, State.goto, State.startShifting, hlatch, hinh hh]

/-- The state of an undisturbed poll of `n` switches when the Decoding phase begins: RAW holds the frame. -/
def State.sampledFrame (s : State) (hasInh : Bit) (n : Nat) : State :=
  { s with
    raw := storeBelow s.raw s.byteAt (n / 2)
    acc := accUndefined
    hist := s.hist ++ latchEvents hasInh s.params.inhActive ++ shiftEvents (s.samples (4 * n))
    phase := .decoding, k := some (n / 2 - 1), j := some 0
    serial := s.serial.drop (4 * n), draws := s.draws + 4 * n, mstep := 0x6 }

/-- R78, R105, R108: the sampling phases take 3 + 9·(COUNT/2) micro-steps. -/
theorem runFor_sampling {hasInh : Bit} (hh : s.hasInh = some hasInh) {n : Byte} (hn : s.count = some n) :
    runFor (3 + 9 * (n.toNat / 2)) s = .next (s.sampledFrame hasInh n.toNat) := by
  obtain ⟨hlow, -, heven⟩ := h.inv.config.countRange n hn
  obtain ⟨r, hr⟩ : ∃ r, n.toNat / 2 = r + 1 := ⟨n.toNat / 2 - 1, by omega⟩
  have hfirst : (s.latched hasInh).AtFirstBit := ⟨h.undisturbed, rfl, rfl, rfl, rfl, h.lines.2.1⟩
  have hbytes : runFor (9 * r) (s.latched hasInh) = .next ((s.latched hasInh).atByte r) := runFor_bytes hfirst hn rfl (by omega)
  rw [runFor_add (runFor_latching h hh), hr, Nat.mul_succ, runFor_add hbytes, runFor_lastByte hfirst hn (by omega)]
  have hbits : 8 * (r + 1) = 4 * n.toNat := by omega
  have hbyteAt : (s.latched hasInh).byteAt = s.byteAt := rfl
  have hsamples : (s.latched hasInh).samples = s.samples := rfl
  simp only [State.atByte, hbits, hbyteAt, hsamples, State.sampledFrame, hr, Nat.add_sub_cancel]
  rfl

end

/-! ### The frame (R78) -/

theorem entryAt_sampledFrame_raw {s : State} (h : s.Inv) {hasInh : Bit} {n : Byte} (hn : s.count = some n) {k : Nat}
    (hk : k < n.toNat / 2) : entryAt (s.sampledFrame hasInh n.toNat).raw k = some (s.byteAt k) := by
  obtain ⟨-, hmax, -⟩ := h.config.countRange n hn
  have hlen : n.toNat / 2 ≤ s.raw.length := by rw [h.shape.rawLength, h.shape.legal.bytes]; omega
  exact (entryAt_storeBelow s.byteAt hlen k).trans (if_pos hk)

/-! ### The events (R106) -/

/-- The bits of a list of events' samples, in order. -/
def sampledBits (es : List Event) : List Bit := es.filterMap fun e => match e with | .sample b => some b | _ => none

theorem sampledBits_append (xs ys : List Event) : sampledBits (xs ++ ys) = sampledBits xs ++ sampledBits ys := List.filterMap_append

theorem shiftEvents_cons (b : Bit) (bits : List Bit) :
    shiftEvents (b :: bits) =
      [.sample b, .drive .clkO true, .settle, .drive .clkO false, .settle] ++ shiftEvents bits := rfl

theorem sampledBits_shiftEvents (bits : List Bit) : sampledBits (shiftEvents bits) = bits := by
  induction bits with
  | nil => rfl
  | cons b bits ih => rw [shiftEvents_cons, sampledBits_append, ih]; rfl

theorem length_shiftEvents (bits : List Bit) : (shiftEvents bits).length = 5 * bits.length := by
  simp [shiftEvents, Nat.mul_comm]

/-- R103, R106: every SHIFT_BIT appends one clock pulse. -/
theorem count_shiftEvents {e : Event} (he : ∀ b, e ≠ .sample b) (bits : List Bit) :
    (shiftEvents bits).count e = bits.length * [Event.drive .clkO true, .settle, .drive .clkO false, .settle].count e := by
  induction bits with
  | nil => simp [shiftEvents]
  | cons b bits ih =>
    rw [shiftEvents_cons, List.count_append, ih, List.count_cons_of_ne (he b).symm, List.length_cons, Nat.succ_mul, Nat.add_comm]

theorem length_samples (s : State) (m : Nat) : (s.samples m).length = m := by simp [State.samples]

/-- Settles O56: the run by `runFor_sampling`, RAW as `storeBelow` of the frame's bytes, the events counted in the two phases. -/
theorem samplingPhasesReceiveFrame : Obligations.SamplingPhasesReceiveFrame := by
  intro s n h hquiet hm hn
  obtain ⟨c, hc, rfl⟩ := Option.map_eq_some_iff.1 hn
  have hbegins : s.PollBegins := ⟨h, ⟨hquiet.1, .inl hquiet.2⟩, hm⟩
  obtain ⟨hasInh, hh⟩ := h.hasInh_of_busy (by simp [hm])
  obtain ⟨-, -, heven⟩ := h.config.countRange c hc
  refine ⟨_, latchEvents hasInh s.params.inhActive ++ shiftEvents (s.samples (4 * c.toNat)), runFor_sampling hbegins hh hc, rfl, rfl, rfl,
    fun m hmlt => ⟨s.byteAt (m / 8), entryAt_sampledFrame_raw h hc (by omega), ?_⟩, List.append_assoc _ _ _, ?_, ?_⟩
  · rw [byteAt_getLsbD s _ (by omega)]
    congr 1
    omega
  · change sampledBits _ = _
    rw [sampledBits_append, sampledBits_shiftEvents]
    cases hasInh <;> rfl
  · have hdrive (l : Line) (lvl : Bit) := count_shiftEvents (e := .drive l lvl) nofun (s.samples (4 * c.toNat))
    have hsettle := count_shiftEvents (e := .settle) nofun (s.samples (4 * c.toNat))
    simp only [List.count_append, List.length_append, hdrive, hsettle, length_shiftEvents, length_samples, hh]
    cases hasInh <;> cases s.params.inhActive <;> simp [latchEvents] <;> omega

end Sys2Proof.Machine
end

section
/-!
PROOF. The decoding phases of an undisturbed poll (R160 to R164): the state after so many switches, each of SPLIT, its decoder and
COMPARE_COMMIT.
-/

namespace Sys2Proof.Machine

/-! ### The codes of the frame (R54, R55) -/

theorem highNibble_byteOfBits : ∀ b7 b6 b5 b4 b3 b2 b1 b0 : Bit,
    highNibble (byteOfBits b7 b6 b5 b4 b3 b2 b1 b0) = BitVec.ofBoolListBE [b7, b6, b5, b4] := by decide

theorem lowNibble_byteOfBits : ∀ b7 b6 b5 b4 b3 b2 b1 b0 : Bit,
    lowNibble (byteOfBits b7 b6 b5 b4 b3 b2 b1 b0) = BitVec.ofBoolListBE [b3, b2, b1, b0] := by decide

/-- R55, R79: the code of a switch is its half of its pair's byte. -/
theorem codeOf_byteAt (s : State) (i : Nat) : codeOf (s.byteAt (pairByte i)) i = s.frameCode i := by
  by_cases hi : i % 2 = 0
  · have hbits : 8 * pairByte i = 4 * i := by rw [pairByte]; omega
    rw [codeOf, if_pos (by simp [firstOfPair, hi]), State.byteAt, highNibble_byteOfBits, hbits, State.frameCode]
  · have hbits (d : Nat) : 8 * pairByte i + (4 + d) = 4 * i + d := by rw [pairByte]; omega
    rw [codeOf, if_neg (by simp [firstOfPair, hi]), State.byteAt, lowNibble_byteOfBits, State.frameCode, hbits 0, hbits 1, hbits 2, hbits 3]
    rfl

/-! ### The snapshot and the change flag over several switches -/

/-- Whether the entry of a switch below `m` differs from the snapshot. -/
def changedBelow (prev : List (Option Nat)) (e : Nat → Nat) (m : Nat) : Bit := (List.range m).any fun i => entryAt prev i != some (e i)

theorem changedBelow_iff (prev : List (Option Nat)) (e : Nat → Nat) (m : Nat) :
    changedBelow prev e m = true ↔ ∃ i, i < m ∧ entryAt prev i ≠ some (e i) := by
  simp [changedBelow]

/-- R163, R166: COMPARE_COMMIT's flag after one more switch. -/
theorem chgAfter_changedBelow {prev : List (Option Nat)} {m old : Nat} (e : Nat → Nat) (hold : entryAt prev m = some old) :
    chgAfter (entryChanged (e m) old) (some (changedBelow prev e m)) = some (changedBelow prev e (m + 1)) := by
  rw [chgAfter_entryChanged]
  simp only [changedBelow, List.range_succ, List.any_append, List.any_cons, List.any_nil, hold, Bool.or_false]
  by_cases heq : e m = old
  · simp [heq]
  · simp [heq, Ne.symm heq]

theorem setEntry_eq_self {α : Type} {a : List (Option α)} {i : Nat} {v : α} (h : entryAt a i = some v) : setEntry a i v = a := by
  have hget : a[i]? = some (some v) := by simpa [entryAt, Option.join_eq_some_iff] using h
  obtain ⟨hi, hv⟩ := List.getElem?_eq_some_iff.1 hget
  rw [setEntry, ← hv, List.set_getElem_self]

/-- R163: writing the snapshot only where it differs leaves what writing it always does. -/
theorem prevAfter_eq_setEntry {prev : List (Option Nat)} {i old : Nat} (hold : entryAt prev i = some old) (new : Nat) :
    prevAfter (entryChanged new old) prev i new = setEntry prev i new := by
  cases hc : entryChanged new old with
  | true => rfl
  | false =>
    have heq : new = old := (entryChanged_eq_false_iff new old).1 hc
    rw [heq, setEntry_eq_self hold]
    rfl

/-! ### One switch (R120, R145, R163) -/

/-- What the switch loop reads, from a state in the Decoding phase: the byte of each pair, the types, the snapshot; `e` gives the entries
they decode to. -/
structure State.DecodesTo (s : State) (n : Byte) (e : Nat → Nat) : Prop where
  undisturbed : s.Undisturbed
  phase : s.phase = .decoding
  count : s.count = some n
  code : s.code = none
  idx : s.idx = none
  reads : ∀ i, i < n.toNat → ∃ b ty old, entryAt s.raw (pairByte i) = some b ∧ entryAt s.type i = some ty ∧
    (ty = 0x08 ∨ ty = 0x0C ∨ ty = 0x10) ∧ entryAt s.prev i = some old ∧ e i = storedIndex s.params (indexOf ty (codeOf b i))

/-- A state in the Decoding phase, once `m` switches are compared and the next one comes. -/
def State.atSwitch (s : State) (e : Nat → Nat) (m : Nat) : State :=
  { s with
    cur := storeBelow s.cur e m
    prev := storeBelow s.prev e m
    chg := some (changedBelow s.prev e m)
    i := some m
    mstep := 0x7 }

/-- The same where COMPARE_COMMIT of switch `m` comes next, with the index the decoder left. -/
def State.atCommit (s : State) (e : Nat → Nat) (m : Nat) (x : Nibble) : State := { s.atSwitch e m with idx := some x, mstep := 0xB }

@[simp] theorem atCommit_params (s : State) (e : Nat → Nat) (m : Nat) (x : Nibble) : (s.atCommit e m x).params = s.params := rfl

/-- The same once all `n` switches are compared and POLL_DONE comes next. -/
def State.allSwitches (s : State) (e : Nat → Nat) (n : Nat) : State :=
  { s.atSwitch e n with i := some (n - 1), phase := .compareAndCommit, mstep := 0xC }

section
variable {s : State} {n : Byte} {e : Nat → Nat} (h : s.DecodesTo n e) {m : Nat}
include h

/-- R120, R145: SPLIT and the decoder leave the index of the switch to COMPARE_COMMIT. -/
theorem runFor_toCompareCommit (hm : m < n.toNat) :
    ∃ x, storedIndex s.params x = e m ∧ runFor 3 (s.atSwitch e m) = execCompareCommit (s.atCommit e m x) := by
  obtain ⟨b, ty, old, hb, hty, hlegal, -, he⟩ := h.reads m hm
  obtain ⟨id, d, hid, hd, hexec⟩ := exists_decoder_of_legal hlegal
  have hbusy : s.phase.busy = true := by rw [h.phase]; rfl
  have hsplit := (execSplit_eq (s := s.atSwitch e m) rfl hb hty).trans (gotoDecoder_of_decoderFor _ hid)
  have hdecode := (hexec _).trans (decodeWith_eq (s := { s.atSwitch e m with code := some (codeOf b m) }.goto id) (indexOf ty) rfl)
  refine ⟨_, he.symm, ?_⟩
  refine Eq.trans (runFor_micro (n := 2) (i := .split) h.undisturbed hbusy rfl hsplit) ?_
  refine Eq.trans (runFor_micro (n := 1) h.undisturbed hbusy (hd s.params) hdecode) ?_
  rw [runFor_one]
  refine Eq.trans (step_of_undisturbed (i := .compareCommit) h.undisturbed hbusy rfl) ?_
  simp only [exec, State.goto, State.atCommit, State.atSwitch, h.code]

/-- R163: the snapshot of a switch not yet compared. -/
theorem entryAt_atSwitch_prev (hm : m < n.toNat) : ∃ old, entryAt s.prev m = some old ∧ entryAt (s.atSwitch e m).prev m = some old := by
  obtain ⟨b, ty, old, -, -, -, hold, -⟩ := h.reads m hm
  have hlt : m < s.prev.length := entryAt_lt hold
  exact ⟨old, hold, (entryAt_storeBelow e hlt.le m).trans ((if_neg (Nat.lt_irrefl m)).trans hold)⟩

theorem commit_atSwitch {x : Nibble} {old : Nat} (hx : storedIndex s.params x = e m) (hold : entryAt s.prev m = some old)
    (hold' : entryAt (s.atSwitch e m).prev m = some old) :
    (s.atCommit e m x).commit m (storedIndex s.params x) old =
      { s.atSwitch e (m + 1) with i := some m, mstep := 0xB } := by
  have hprev : prevAfter (entryChanged (e m) old) (storeBelow s.prev e m) m (e m) = setEntry (storeBelow s.prev e m) m (e m) :=
    prevAfter_eq_setEntry hold' (e m)
  simp only [State.commit, State.atCommit, State.atSwitch, storeBelow, hx, hprev, chgAfter_changedBelow e hold, h.idx]

/-- R163: before the last switch the next one begins. -/
theorem runFor_switch (hm : m + 1 < n.toNat) : runFor 3 (s.atSwitch e m) = .next (s.atSwitch e (m + 1)) := by
  obtain ⟨x, hx, hrun⟩ := runFor_toCompareCommit h (m := m) (by omega)
  obtain ⟨old, hold, hold'⟩ := entryAt_atSwitch_prev h (m := m) (by omega)
  have hcommit := commit_atSwitch h hx hold hold'
  rw [hrun, execCompareCommit_of_lt (s := s.atCommit e m x) rfl rfl hold' h.count hm]
  simp only [atCommit_params, hcommit]
  simp [State.goto, State.atSwitch, h.phase]

/-- R163: after the last switch POLL_DONE comes. -/
theorem runFor_lastSwitch (hm : m + 1 = n.toNat) :
    runFor 3 (s.atSwitch e m) = .next { s.atSwitch e (m + 1) with i := some m, phase := .compareAndCommit, mstep := 0xC } := by
  obtain ⟨x, hx, hrun⟩ := runFor_toCompareCommit h (m := m) (by omega)
  obtain ⟨old, hold, hold'⟩ := entryAt_atSwitch_prev h (m := m) (by omega)
  have hcommit := commit_atSwitch h hx hold hold'
  rw [hrun, execCompareCommit_of_not_lt (s := s.atCommit e m x) rfl rfl hold' h.count (by omega)]
  simp only [atCommit_params, hcommit]
  rfl

/-- The switches but the last. -/
theorem runFor_switches (hm : m < n.toNat) : runFor (3 * m) (s.atSwitch e 0) = .next (s.atSwitch e m) := by
  induction m with
  | zero => rfl
  | succ m ih => rw [Nat.mul_succ, runFor_add (ih (by omega)), runFor_switch h hm]

/-- R163: the whole switch loop, which ends at POLL_DONE. -/
theorem runFor_switchLoop (hpos : 0 < n.toNat) : runFor (3 * n.toNat) (s.atSwitch e 0) = .next (s.allSwitches e n.toNat) := by
  obtain ⟨r, hr⟩ : ∃ r, n.toNat = r + 1 := ⟨n.toNat - 1, by omega⟩
  rw [hr, Nat.mul_succ, runFor_add (runFor_switches h (by omega)), runFor_lastSwitch h hr.symm]
  rfl

end

end Sys2Proof.Machine
end

section
/-!
PROOF. A whole poll (R160 to R168): the state it leaves, from the micro-step INH_ASSERT and from the command in Idle.
-/

namespace Sys2Proof.Machine

/-! ### From INH_ASSERT to POLL_DONE -/

/-- R165: the entry each switch gets from the frame that begins with the next sample. -/
def State.newEntry (s : State) (i : Nat) : Nat := s.frameEntry i ((entryAt s.type i).getD 0)

theorem newEntry_of_type {s : State} {i ty : Nat} (hty : entryAt s.type i = some ty) : s.newEntry i = s.frameEntry i ty := by
  rw [State.newEntry, hty, Option.getD_some]

/-- The state an undisturbed poll of `n` switches leaves. -/
def State.polled (s : State) (hasInh : Bit) (n : Nat) : State :=
  { s.sampledFrame hasInh n with
    cur := storeBelow s.cur s.newEntry n
    prev := storeBelow s.prev s.newEntry n
    chg := some (changedBelow s.prev s.newEntry n)
    i := some (n - 1)
    raw := undefinedArray s.params.maxBytes
    phase := .idle
    mstep := 0x0
    responses := s.responses ++ [.changed (changedBelow s.prev s.newEntry n)] }

section
variable {s : State} (h : s.PollBegins) {hasInh : Bit} {n : Byte} (hn : s.count = some n)
include h hn

/-- R165: what the sampling phases leave decodes to the frame's entries. -/
theorem sampledFrame_decodesTo : (s.sampledFrame hasInh n.toNat).DecodesTo n s.newEntry where
  undisturbed := h.undisturbed
  phase := rfl
  count := hn
  code := h.inv.seq.code_eq_none (by simp [h.mstep])
  idx := h.inv.seq.idx_eq_none (by simp [h.mstep])
  reads := by
    intro i hi
    obtain ⟨-, -, heven⟩ := h.inv.config.countRange n hn
    have hswitch : i < s.switches := switches_of_count hn ▸ hi
    obtain ⟨ty, hty, hmem⟩ := h.inv.config.typeBelow i hswitch
    obtain ⟨old, hold⟩ := h.inv.config.prevBelow i hswitch
    have hraw := entryAt_sampledFrame_raw h.inv hn (hasInh := hasInh) (k := pairByte i) (by rw [pairByte]; omega)
    refine ⟨_, ty, old, hraw, hty, (h.inv.shape.legal.typesDecoded ty hmem).1, hold, ?_⟩
    rw [codeOf_byteAt, newEntry_of_type hty]
    rfl

/-- R160, R108: an undisturbed poll runs to completion in a number of micro-steps that COUNT fixes. -/
theorem runFor_poll (hh : s.hasInh = some hasInh) : runFor (pollSteps n.toNat) s = .next (s.polled hasInh n.toNat) := by
  obtain ⟨hlow, -⟩ := h.inv.config.countRange n hn
  have hdecodes := sampledFrame_decodesTo h hn (hasInh := hasInh)
  have hclear : runFor 1 (s.sampledFrame hasInh n.toNat) = .next ((s.sampledFrame hasInh n.toNat).atSwitch s.newEntry 0) :=
    (runFor_one _).trans (step_of_undisturbed (i := .clearChg) hdecodes.undisturbed rfl rfl)
  have hswitches := runFor_switchLoop hdecodes (by omega)
  have hdone : runFor 1 ((s.sampledFrame hasInh n.toNat).allSwitches s.newEntry n.toNat) = .next (s.polled hasInh n.toNat) := by
    rw [runFor_one]
    refine Eq.trans (step_of_undisturbed (i := .pollDone) hdecodes.undisturbed rfl rfl) ?_
    exact execPollDone_eq rfl
  exact runFor_trans (runFor_trans (runFor_trans (runFor_sampling h hh hn) hclear) hswitches) hdone

/-- R165: the entries of a completed poll. -/
theorem entryAt_polled {i : Nat} (hi : i < n.toNat) :
    entryAt (s.polled hasInh n.toNat).cur i = some (s.newEntry i) ∧ entryAt (s.polled hasInh n.toNat).prev i = some (s.newEntry i) := by
  obtain ⟨-, hmax, -⟩ := h.inv.config.countRange n hn
  have hcur : n.toNat ≤ s.cur.length := by rw [h.inv.shape.curLength]; exact hmax
  have hprev : n.toNat ≤ s.prev.length := by rw [h.inv.shape.prevLength]; exact hmax
  exact ⟨(entryAt_storeBelow _ hcur i).trans (if_pos hi), (entryAt_storeBelow _ hprev i).trans (if_pos hi)⟩

end

/-! ### From the command in Idle (R187) -/

section
variable {s : State} {q : InitRecord} {rest : List HostInput}

/-- What an accepted POLL leaves. -/
def State.pollAccepted (s : State) (rest : List HostInput) : State := (s.withHost rest).startPoll

/-- R187: in Idle a POLL presented or issued is accepted. -/
theorem step_poll (hf : s.fault = none) (hp : s.phase = .idle)
    (hh : s.host = .present ⟨pollWord, q⟩ :: rest ∨ s.host = .issue ⟨pollWord, q⟩ :: rest) :
    step s = .next (s.pollAccepted rest) := by
  have hrun : runCode (.command ⟨pollWord, q⟩) (s.withHost rest) = .next (s.pollAccepted rest) :=
    (runCode_ok (s.withHost rest) (decode_pollWord s.params q)).trans
      (whenConfigured_idle (s := s.withHost rest) hp)
  obtain hh | hh := hh
  · exact (step_present hf hh).trans hrun
  · exact (step_issue_of_free hf hh (by rw [hp]; rfl)).trans hrun

/-- R165: a POLL in Idle, with at most issued commands after it, runs to completion. -/
theorem runFor_pollCommand (h : s.Inv) (hf : s.fault = none) (hp : s.phase = .idle)
    (hh : s.host = .present ⟨pollWord, q⟩ :: rest ∨ s.host = .issue ⟨pollWord, q⟩ :: rest)
    (hrest : rest = [] ∨ ∃ p rest', rest = .issue p :: rest') :
    (s.pollAccepted rest).PollBegins ∧ ∃ n hasInh, s.count = some n ∧
      runFor (1 + pollSteps n.toNat) s = .next ((s.pollAccepted rest).polled hasInh n.toNat) := by
  have hstep := step_poll hf hp hh
  have hbegins : (s.pollAccepted rest).PollBegins := ⟨everyStepKeepsInvariant s _ h hstep, ⟨hf, hrest⟩, rfl⟩
  obtain ⟨n, hn, -⟩ := h.count_of_configured (by simp [hp])
  obtain ⟨hasInh, hinh⟩ := hbegins.inv.hasInh_of_busy (by simp [hbegins.mstep])
  exact ⟨hbegins, n, hasInh, hn, runFor_trans ((runFor_one s).trans hstep) (runFor_poll hbegins hn hinh)⟩

end

/-- Settles O57: the run by `runFor_pollCommand`; the entries are the frame's, and the flag compares them with the
snapshot before. -/
theorem completedPollResult : Obligations.CompletedPollResult := by
  intro s r h hf hp hh
  obtain ⟨hbegins, n, hasInh, hn, hrun⟩ := runFor_pollCommand (q := r) h hf hp (.inl hh) (.inl rfl)
  have hentry {i : Nat} (hi : i < n.toNat) := entryAt_polled hbegins hn (hasInh := hasInh) hi
  rw [switches_of_count hn]
  refine ⟨_, _, hrun, rfl, ⟨hf, rfl⟩, runFor_inv h hrun, fun i ty hi hty => ?_, rfl, rfl, entryAt_undefinedArray _, rfl, rfl, rfl, rfl,
    ?_⟩
  · have hnew : (s.pollAccepted []).newEntry i = s.frameEntry i ty := newEntry_of_type hty
    rw [← hnew]
    exact hentry hi
  · rw [changedBelow_iff]
    refine exists_congr fun i => and_congr_right fun hi => ?_
    rw [(hentry hi).1]
    exact ne_comm

end Sys2Proof.Machine
end

section
/-!
PROOF. Two commands in a row: a poll after a successful INIT (R167), and a poll after a poll that receives the same bits (R168).
-/

namespace Sys2Proof.Machine

/-! ### INIT, then POLL (R167) -/

section
variable {s : State} {r : InitRecord} {n : Nat} {rest : List HostInput}

/-- R185: an issued INIT that succeeds, by the fields a poll after it depends on. -/
theorem step_init (h : s.Inv) (hf : s.fault = none) (hp : s.phase = .idle ∨ s.phase = .unconfigured)
    (hh : s.host = .issue ⟨initWord, r⟩ :: rest) (hr : r.wellFormed s.params = true)
    (hn : n = min (r.countIn + r.countIn % 2) s.params.maxCount) (hpos : n ≠ 0)
    (htypes : ∀ i, i < n → ∃ ty, r.typeIn[i]? = some ty ∧ ty ∈ s.params.positionTypes)
    (halloc : s.params.allocMayFail = false ∨ s.allocDraw = true) :
    ∃ t, step s = .next t ∧ t.Inv ∧ t.fault = none ∧ t.phase = .idle ∧ t.host = rest ∧ t.count.map BitVec.toNat = some n ∧
      (∀ i, i < n → entryAt t.prev i = some t.params.sentinel) ∧ t.responses = s.responses ++ [.ok true] := by
  obtain ⟨t, hexec, hcount, -, hphase, hbelow, -, -, -, -, -, -, -, -, -, -, -, -, hfault, -, hresponses⟩ :=
    initConfiguresBlock (s.withHost rest) r n h.shape.legal hp hn hpos htypes halloc
  obtain ⟨hparams, hhost, -⟩ := ownFieldsFrame _ _ _ hexec
  have hstep : step s = .next t :=
    (step_issue_of_free hf hh ((busy_eq_false_iff _).2 hp)).trans ((runCode_ok (s.withHost rest) (decode_initWord hr)).trans hexec)
  refine ⟨t, hstep, everyStepKeepsInvariant s t h hstep, hfault.trans hf, hphase, hhost, hcount, fun i hi => ?_, hresponses⟩
  rw [hparams]
  exact (hbelow i hi).2

end

/-- R81: an entry of an admitted width is an index. -/
theorem frameEntry_le {s : State} (h : s.params.Legal) (i ty : Nat) : s.frameEntry i ty ≤ 15 := by
  rw [State.frameEntry, storedIndex_eq h]
  exact Nat.le_of_lt_succ (BitVec.isLt _)

/-- Settles O58: every entry differs from the sentinel INIT left in the snapshot. -/
theorem firstPollReportsChange : Obligations.FirstPollReportsChange := by
  intro s q r n h hf hp hh hr hn hpos htypes halloc
  obtain ⟨t, hstep, hinv, hfault, hidle, hhost, hcount, hprev, hresponses⟩ := step_init h hf hp hh hr hn hpos htypes halloc
  obtain ⟨hbegins, c, hasInh, hc, hrun⟩ := runFor_pollCommand (q := q) hinv hfault hidle (.inr hhost) (.inl rfl)
  obtain rfl : c.toNat = n := by simpa [hc] using hcount
  have hlegal := hbegins.inv.shape.legal
  have hchanged : changedBelow t.prev (t.pollAccepted []).newEntry c.toNat = true := by
    refine (changedBelow_iff _ _ _).2 ⟨0, Nat.pos_of_ne_zero hpos, ?_⟩
    rw [hprev 0 (Nat.pos_of_ne_zero hpos)]
    exact fun heq => storedIndex_ne_sentinel hlegal _ (Option.some.inj heq).symm
  have hrun' : runFor (2 + pollSteps c.toNat) s = .next ((t.pollAccepted []).polled hasInh c.toNat) := by
    rw [show 2 + pollSteps c.toNat = 1 + (1 + pollSteps c.toNat) by omega]
    exact runFor_trans ((runFor_one s).trans hstep) hrun
  refine ⟨_, hrun', rfl, ?_, runFor_inv h hrun', hcount, fun i hi => ?_⟩
  · change t.responses ++ [Response.changed (changedBelow t.prev (t.pollAccepted []).newEntry c.toNat)] = _
    rw [hchanged, hresponses, List.append_assoc]
    rfl
  · exact ⟨_, (entryAt_polled hbegins hc hi).1, frameEntry_le hlegal i _⟩

/-! ### POLL, then POLL (R168) -/

/-- An array filled with the entries it holds is as it was. -/
theorem storeBelow_eq_self {α : Type} {a : List (Option α)} {f : Nat → α} {m : Nat} (h : ∀ i, i < m → entryAt a i = some (f i)) :
    storeBelow a f m = a := by
  induction m with
  | zero => rfl
  | succ m ih =>
    rw [storeBelow, ih fun i hi => h i (by omega)]
    exact setEntry_eq_self (h m (Nat.lt_succ_self m))

/-- R55: frames of equal bits give equal entries. -/
theorem newEntry_eq_of_serialAt {s t : State} (htype : t.type = s.type) (hparams : t.params = s.params) {i : Nat}
    (hserial : ∀ m, 4 * i ≤ m → m < 4 * (i + 1) → t.serialAt m = s.serialAt m) : t.newEntry i = s.newEntry i := by
  have hcode : t.frameCode i = s.frameCode i := by
    rw [State.frameCode, hserial (4 * i) (by omega) (by omega), hserial (4 * i + 1) (by omega) (by omega),
      hserial (4 * i + 2) (by omega) (by omega), hserial (4 * i + 3) (by omega) (by omega), State.frameCode]
  simp only [State.newEntry, State.frameEntry, hcode, htype, hparams]

/-- Settles O59: the second frame gives the entries the first one left in the snapshot. -/
theorem repeatedPollReportsNoChange : Obligations.RepeatedPollReportsNoChange := by
  intro s q r h hf hp hh hserial
  obtain ⟨hbegins, n, hasInh, hn, hrun⟩ := runFor_pollCommand (q := q) h hf hp (.inr hh) (.inr ⟨_, _, rfl⟩)
  rw [switches_of_count hn] at hserial ⊢
  set t := (s.pollAccepted [.issue ⟨pollWord, r⟩]).polled hasInh n.toNat
  obtain ⟨-, n', hasInh', hn', hrun'⟩ := runFor_pollCommand (s := t) (q := r) (runFor_inv h hrun) hf rfl (.inr rfl) (.inl rfl)
  cases hn.symm.trans hn'
  have hsame (i : Nat) (hi : i < n.toNat) : (t.pollAccepted []).newEntry i = (s.pollAccepted [.issue ⟨pollWord, r⟩]).newEntry i := by
    refine newEntry_eq_of_serialAt (s := s.pollAccepted _) (t := t.pollAccepted []) rfl rfl fun m _ hm => ?_
    have hdrawn : (t.pollAccepted []).serialAt m = s.serialAt (4 * n.toNat + m) := serialAt_of_drawn rfl rfl m
    exact hdrawn.trans (hserial m (by omega))
  have hentry (i : Nat) (hi : i < n.toNat) := hsame i hi ▸ entryAt_polled hbegins hn (hasInh := hasInh) hi
  have hunchanged : changedBelow t.prev (t.pollAccepted []).newEntry n.toNat = false := by
    refine Bool.eq_false_iff.2 fun hc => ?_
    obtain ⟨i, hi, hne⟩ := (changedBelow_iff _ _ _).1 hc
    exact hne (hentry i hi).2
  refine ⟨t, _, hrun, hrun', ?_, storeBelow_eq_self fun i hi => (hentry i hi).1⟩
  change t.responses ++ [Response.changed (changedBelow t.prev (t.pollAccepted []).newEntry n.toNat)] = _
  rw [hunchanged]

end Sys2Proof.Machine
end
